-- ==== Sys2Proof/Word.lean ====
section
/-! DEFINITION. The words of the core: 32-bit register values, addresses and instruction words, 8-bit bytes, and the
4-bit register numbers that instruction fields hold (`00_scope.md` R8, R9; `10_state.md` R20). -/

namespace Sys2Proof

/-- A register value, an address or an instruction word: an unsigned 32-bit integer whose `+` and `-` wrap (R9). -/
abbrev Word := BitVec 32

/-- The addressable unit of memory (R60). -/
abbrev Byte := BitVec 8

/-- A register number of an instruction field, 0 to 15 (R20). -/
abbrev RegIdx := BitVec 4

/-- R14, the link register (R21). -/
def lr : RegIdx := 14

/-- R15, the program counter (R21, R23). -/
def pcIdx : RegIdx := 15

end Sys2Proof
end

