-- ==== Sys2Proof/Syntax.lean ====
section
/-! DEFINITION. The instruction set as syntax: one constructor of `Instr` for each of the 78 rows of
`spec/opcode_table.json`. Fields the spec says are ignored (should-be-zero and should-be-one fields, Rn of MOV and MVN, Rd of
the comparisons: R118, R213, R227, R229) are no part of an instruction's meaning and are not kept (log 5); the rows that stand
for a whole class have the one field the table gives them, the condition (log 6). -/

namespace Sys2Proof

/-- The fifteen conditions of the normal table, codes 0000 to 1110 (`41_condition_and_step.md` R150). Code 1111 is not a
condition: it selects the unconditional space (R152). -/
inductive Cond where
  | eq | ne | cs | cc | mi | pl | vs | vc | hi | ls | ge | lt | gt | le | al
deriving DecidableEq, Repr

/-- The four shift kinds of bits 6:5 (`30_encoding.md` R114). -/
inductive ShiftType where
  | lsl | lsr | asr | ror
deriving DecidableEq, Repr

/-- The status register that bit 22 of MRS and MSR selects: 0 CPSR, 1 SPSR (R99, R100). -/
inductive Psr where
  | cpsr | spsr
deriving DecidableEq, Repr

/-- The instructions. In every constructor `c` is the condition, `s` the set-flags bit (bit 20), `rn`, `rd`, `rs`, `rm`
register numbers, `rot` and `imm8` the rotated immediate, `amt` and `ty` an immediate shift; in the block transfers `p`, `u`
and `w` are bits 24, 23 and 21 and `list` the register list (R98). -/
inductive Instr where
  /-- AND, format DP_IMM (R214, R92). -/
  | andImm (c : Cond) (s : Bool) (rn rd : RegIdx) (rot : BitVec 4) (imm8 : BitVec 8)
  /-- AND, format DP_REG_IMMSHIFT (R214, R92). -/
  | andShImm (c : Cond) (s : Bool) (rn rd : RegIdx) (amt : BitVec 5) (ty : ShiftType) (rm : RegIdx)
  /-- AND, format DP_REG_REGSHIFT (R214, R92). -/
  | andShReg (c : Cond) (s : Bool) (rn rd : RegIdx) (rs : RegIdx) (ty : ShiftType) (rm : RegIdx)
  /-- EOR, format DP_IMM (R215, R92). -/
  | eorImm (c : Cond) (s : Bool) (rn rd : RegIdx) (rot : BitVec 4) (imm8 : BitVec 8)
  /-- EOR, format DP_REG_IMMSHIFT (R215, R92). -/
  | eorShImm (c : Cond) (s : Bool) (rn rd : RegIdx) (amt : BitVec 5) (ty : ShiftType) (rm : RegIdx)
  /-- EOR, format DP_REG_REGSHIFT (R215, R92). -/
  | eorShReg (c : Cond) (s : Bool) (rn rd : RegIdx) (rs : RegIdx) (ty : ShiftType) (rm : RegIdx)
  /-- SUB, format DP_IMM (R216, R92). -/
  | subImm (c : Cond) (s : Bool) (rn rd : RegIdx) (rot : BitVec 4) (imm8 : BitVec 8)
  /-- SUB, format DP_REG_IMMSHIFT (R216, R92). -/
  | subShImm (c : Cond) (s : Bool) (rn rd : RegIdx) (amt : BitVec 5) (ty : ShiftType) (rm : RegIdx)
  /-- SUB, format DP_REG_REGSHIFT (R216, R92). -/
  | subShReg (c : Cond) (s : Bool) (rn rd : RegIdx) (rs : RegIdx) (ty : ShiftType) (rm : RegIdx)
  /-- RSB, format DP_IMM (R217, R92). -/
  | rsbImm (c : Cond) (s : Bool) (rn rd : RegIdx) (rot : BitVec 4) (imm8 : BitVec 8)
  /-- RSB, format DP_REG_IMMSHIFT (R217, R92). -/
  | rsbShImm (c : Cond) (s : Bool) (rn rd : RegIdx) (amt : BitVec 5) (ty : ShiftType) (rm : RegIdx)
  /-- RSB, format DP_REG_REGSHIFT (R217, R92). -/
  | rsbShReg (c : Cond) (s : Bool) (rn rd : RegIdx) (rs : RegIdx) (ty : ShiftType) (rm : RegIdx)
  /-- ADD, format DP_IMM (R218, R92). -/
  | addImm (c : Cond) (s : Bool) (rn rd : RegIdx) (rot : BitVec 4) (imm8 : BitVec 8)
  /-- ADD, format DP_REG_IMMSHIFT (R218, R92). -/
  | addShImm (c : Cond) (s : Bool) (rn rd : RegIdx) (amt : BitVec 5) (ty : ShiftType) (rm : RegIdx)
  /-- ADD, format DP_REG_REGSHIFT (R218, R92). -/
  | addShReg (c : Cond) (s : Bool) (rn rd : RegIdx) (rs : RegIdx) (ty : ShiftType) (rm : RegIdx)
  /-- ADC, format DP_IMM (R219, R92). -/
  | adcImm (c : Cond) (s : Bool) (rn rd : RegIdx) (rot : BitVec 4) (imm8 : BitVec 8)
  /-- ADC, format DP_REG_IMMSHIFT (R219, R92). -/
  | adcShImm (c : Cond) (s : Bool) (rn rd : RegIdx) (amt : BitVec 5) (ty : ShiftType) (rm : RegIdx)
  /-- ADC, format DP_REG_REGSHIFT (R219, R92). -/
  | adcShReg (c : Cond) (s : Bool) (rn rd : RegIdx) (rs : RegIdx) (ty : ShiftType) (rm : RegIdx)
  /-- SBC, format DP_IMM (R220, R92). -/
  | sbcImm (c : Cond) (s : Bool) (rn rd : RegIdx) (rot : BitVec 4) (imm8 : BitVec 8)
  /-- SBC, format DP_REG_IMMSHIFT (R220, R92). -/
  | sbcShImm (c : Cond) (s : Bool) (rn rd : RegIdx) (amt : BitVec 5) (ty : ShiftType) (rm : RegIdx)
  /-- SBC, format DP_REG_REGSHIFT (R220, R92). -/
  | sbcShReg (c : Cond) (s : Bool) (rn rd : RegIdx) (rs : RegIdx) (ty : ShiftType) (rm : RegIdx)
  /-- RSC, format DP_IMM (R221, R92). -/
  | rscImm (c : Cond) (s : Bool) (rn rd : RegIdx) (rot : BitVec 4) (imm8 : BitVec 8)
  /-- RSC, format DP_REG_IMMSHIFT (R221, R92). -/
  | rscShImm (c : Cond) (s : Bool) (rn rd : RegIdx) (amt : BitVec 5) (ty : ShiftType) (rm : RegIdx)
  /-- RSC, format DP_REG_REGSHIFT (R221, R92). -/
  | rscShReg (c : Cond) (s : Bool) (rn rd : RegIdx) (rs : RegIdx) (ty : ShiftType) (rm : RegIdx)
  /-- TST, format DP_IMM (R222, R92). -/
  | tstImm (c : Cond) (rn : RegIdx) (rot : BitVec 4) (imm8 : BitVec 8)
  /-- TST, format DP_REG_IMMSHIFT (R222, R92). -/
  | tstShImm (c : Cond) (rn : RegIdx) (amt : BitVec 5) (ty : ShiftType) (rm : RegIdx)
  /-- TST, format DP_REG_REGSHIFT (R222, R92). -/
  | tstShReg (c : Cond) (rn : RegIdx) (rs : RegIdx) (ty : ShiftType) (rm : RegIdx)
  /-- TEQ, format DP_IMM (R223, R92). -/
  | teqImm (c : Cond) (rn : RegIdx) (rot : BitVec 4) (imm8 : BitVec 8)
  /-- TEQ, format DP_REG_IMMSHIFT (R223, R92). -/
  | teqShImm (c : Cond) (rn : RegIdx) (amt : BitVec 5) (ty : ShiftType) (rm : RegIdx)
  /-- TEQ, format DP_REG_REGSHIFT (R223, R92). -/
  | teqShReg (c : Cond) (rn : RegIdx) (rs : RegIdx) (ty : ShiftType) (rm : RegIdx)
  /-- CMP, format DP_IMM (R224, R92). -/
  | cmpImm (c : Cond) (rn : RegIdx) (rot : BitVec 4) (imm8 : BitVec 8)
  /-- CMP, format DP_REG_IMMSHIFT (R224, R92). -/
  | cmpShImm (c : Cond) (rn : RegIdx) (amt : BitVec 5) (ty : ShiftType) (rm : RegIdx)
  /-- CMP, format DP_REG_REGSHIFT (R224, R92). -/
  | cmpShReg (c : Cond) (rn : RegIdx) (rs : RegIdx) (ty : ShiftType) (rm : RegIdx)
  /-- CMN, format DP_IMM (R225, R92). -/
  | cmnImm (c : Cond) (rn : RegIdx) (rot : BitVec 4) (imm8 : BitVec 8)
  /-- CMN, format DP_REG_IMMSHIFT (R225, R92). -/
  | cmnShImm (c : Cond) (rn : RegIdx) (amt : BitVec 5) (ty : ShiftType) (rm : RegIdx)
  /-- CMN, format DP_REG_REGSHIFT (R225, R92). -/
  | cmnShReg (c : Cond) (rn : RegIdx) (rs : RegIdx) (ty : ShiftType) (rm : RegIdx)
  /-- ORR, format DP_IMM (R226, R92). -/
  | orrImm (c : Cond) (s : Bool) (rn rd : RegIdx) (rot : BitVec 4) (imm8 : BitVec 8)
  /-- ORR, format DP_REG_IMMSHIFT (R226, R92). -/
  | orrShImm (c : Cond) (s : Bool) (rn rd : RegIdx) (amt : BitVec 5) (ty : ShiftType) (rm : RegIdx)
  /-- ORR, format DP_REG_REGSHIFT (R226, R92). -/
  | orrShReg (c : Cond) (s : Bool) (rn rd : RegIdx) (rs : RegIdx) (ty : ShiftType) (rm : RegIdx)
  /-- MOV, format DP_IMM (R227, R92). -/
  | movImm (c : Cond) (s : Bool) (rd : RegIdx) (rot : BitVec 4) (imm8 : BitVec 8)
  /-- MOV, format DP_REG_IMMSHIFT (R227, R92). -/
  | movShImm (c : Cond) (s : Bool) (rd : RegIdx) (amt : BitVec 5) (ty : ShiftType) (rm : RegIdx)
  /-- MOV, format DP_REG_REGSHIFT (R227, R92). -/
  | movShReg (c : Cond) (s : Bool) (rd : RegIdx) (rs : RegIdx) (ty : ShiftType) (rm : RegIdx)
  /-- BIC, format DP_IMM (R228, R92). -/
  | bicImm (c : Cond) (s : Bool) (rn rd : RegIdx) (rot : BitVec 4) (imm8 : BitVec 8)
  /-- BIC, format DP_REG_IMMSHIFT (R228, R92). -/
  | bicShImm (c : Cond) (s : Bool) (rn rd : RegIdx) (amt : BitVec 5) (ty : ShiftType) (rm : RegIdx)
  /-- BIC, format DP_REG_REGSHIFT (R228, R92). -/
  | bicShReg (c : Cond) (s : Bool) (rn rd : RegIdx) (rs : RegIdx) (ty : ShiftType) (rm : RegIdx)
  /-- MVN, format DP_IMM (R229, R92). -/
  | mvnImm (c : Cond) (s : Bool) (rd : RegIdx) (rot : BitVec 4) (imm8 : BitVec 8)
  /-- MVN, format DP_REG_IMMSHIFT (R229, R92). -/
  | mvnShImm (c : Cond) (s : Bool) (rd : RegIdx) (amt : BitVec 5) (ty : ShiftType) (rm : RegIdx)
  /-- MVN, format DP_REG_REGSHIFT (R229, R92). -/
  | mvnShReg (c : Cond) (s : Bool) (rd : RegIdx) (rs : RegIdx) (ty : ShiftType) (rm : RegIdx)
  /-- MRS (R280, R99). -/
  | mrs (c : Cond) (psr : Psr) (rd : RegIdx)
  /-- MSR, register operand (R283, R100). -/
  | msrReg (c : Cond) (psr : Psr) (mask : BitVec 4) (rm : RegIdx)
  /-- MSR, immediate operand (R282, R100). -/
  | msrImm (c : Cond) (psr : Psr) (mask : BitVec 4) (rot : BitVec 4) (imm8 : BitVec 8)
  /-- BX (R244, R97). -/
  | bx (c : Cond) (rm : RegIdx)
  /-- BLX, register form (R245, R97). -/
  | blxReg (c : Cond) (rm : RegIdx)
  /-- CLZ (R284, R101). -/
  | clz (c : Cond) (rd rm : RegIdx)
  /-- QADD (R301). -/
  | qadd (c : Cond)
  /-- QSUB (R301). -/
  | qsub (c : Cond)
  /-- QDADD (R301). -/
  | qdadd (c : Cond)
  /-- QDSUB (R301). -/
  | qdsub (c : Cond)
  /-- The signed multiply class (R302). -/
  | smulClass (c : Cond)
  /-- The multiply class (R300). -/
  | mulClass (c : Cond)
  /-- The extra load/store class, halfword (R303). -/
  | xlsClassH (c : Cond)
  /-- The extra load/store class, signed byte or doubleword load (R303). -/
  | xlsClassSb (c : Cond)
  /-- The extra load/store class, signed halfword or doubleword store (R303). -/
  | xlsClassSh (c : Cond)
  /-- The single load/store class, immediate offset (R304). -/
  | lsImmClass (c : Cond)
  /-- The single load/store class, register offset (R304). -/
  | lsRegClass (c : Cond)
  /-- The media class (R305). -/
  | mediaClass (c : Cond)
  /-- LDM, S = 0 (R259, R98). -/
  | ldm (c : Cond) (p u w : Bool) (rn : RegIdx) (list : BitVec 16)
  /-- LDM of the User bank: S = 1, R15 not listed (R262). -/
  | ldmUser (c : Cond) (p u w : Bool) (rn : RegIdx) (list : BitVec 16)
  /-- LDM with CPSR restore: S = 1, R15 listed (R261). -/
  | ldmRet (c : Cond) (p u w : Bool) (rn : RegIdx) (list : BitVec 16)
  /-- STM, S = 0 (R263, R98). -/
  | stm (c : Cond) (p u w : Bool) (rn : RegIdx) (list : BitVec 16)
  /-- STM of the User bank: S = 1, R15 not listed (R264). -/
  | stmUser (c : Cond) (p u w : Bool) (rn : RegIdx) (list : BitVec 16)
  /-- STM with S = 1 and R15 listed (R265). -/
  | stmSPc (c : Cond) (p u w : Bool) (rn : RegIdx) (list : BitVec 16)
  /-- B (R241, R95). -/
  | b (c : Cond) (imm24 : BitVec 24)
  /-- BL (R242, R95). -/
  | bl (c : Cond) (imm24 : BitVec 24)
  /-- The coprocessor data transfer class (R306). -/
  | cpLsClass (c : Cond)
  /-- The coprocessor register transfer and data operation class (R307). -/
  | cpOpClass (c : Cond)
  /-- The software interrupt (R308). -/
  | swi (c : Cond)
  /-- BLX, immediate form; unconditional (R243, R96). -/
  | blxImm (h : Bool) (imm24 : BitVec 24)
deriving DecidableEq, Repr

end Sys2Proof
end

