-- ==== Sys2Proof/WellFormed.lean ====
section
/-! DEFINITION. Which terms of `Instr` are instructions. Every field holds exactly the values its encoding admits, but for
the S = 1 block transfers, whose form is told apart by bit 15 of the list (`30_encoding.md` R110). -/

namespace Sys2Proof

/-- R15 stands in the register list (bit 15, R98). -/
def listsPc (list : BitVec 16) : Bool := list.getLsbD 15

/-- An instruction term is well formed when its register list fits its row (R110): LDM_USER and STM_USER do not list R15,
LDM_RET and STM_S_PC do. Every other term is well formed. -/
def Instr.wf : Instr → Bool
  | .ldmUser _ _ _ _ _ list => !listsPc list
  | .ldmRet _ _ _ _ _ list => listsPc list
  | .stmUser _ _ _ _ _ list => !listsPc list
  | .stmSPc _ _ _ _ _ list => listsPc list
  | .andImm .. | .andShImm .. | .andShReg .. | .eorImm .. | .eorShImm .. | .eorShReg .. | .subImm ..
  | .subShImm .. | .subShReg .. | .rsbImm .. | .rsbShImm .. | .rsbShReg .. | .addImm .. | .addShImm ..
  | .addShReg .. | .adcImm .. | .adcShImm .. | .adcShReg .. | .sbcImm .. | .sbcShImm .. | .sbcShReg ..
  | .rscImm .. | .rscShImm .. | .rscShReg .. | .tstImm .. | .tstShImm .. | .tstShReg .. | .teqImm ..
  | .teqShImm .. | .teqShReg .. | .cmpImm .. | .cmpShImm .. | .cmpShReg .. | .cmnImm .. | .cmnShImm ..
  | .cmnShReg .. | .orrImm .. | .orrShImm .. | .orrShReg .. | .movImm .. | .movShImm .. | .movShReg ..
  | .bicImm .. | .bicShImm .. | .bicShReg .. | .mvnImm .. | .mvnShImm .. | .mvnShReg .. | .mrs ..
  | .msrReg .. | .msrImm .. | .bx .. | .blxReg .. | .clz .. | .qadd .. | .qsub .. | .qdadd .. | .qdsub ..
  | .smulClass .. | .mulClass .. | .xlsClassH .. | .xlsClassSb .. | .xlsClassSh .. | .lsImmClass ..
  | .lsRegClass .. | .mediaClass .. | .ldm .. | .stm .. | .b .. | .bl .. | .cpLsClass .. | .cpOpClass ..
  | .swi .. | .blxImm .. => true

end Sys2Proof
end

