-- ==== Sys2Proof/Decode.lean ====
section
/-! DEFINITION. The decoder, total on any bytes and rejecting by name, written as the decode tree of `30_encoding.md` R102 to
R112; after it the encoder, written from the formats R92 to R101, and the rows of `spec/opcode_table.json` as masks and values
(R120). -/

namespace Sys2Proof

/-! ## Fields of an instruction word (R91 to R101) -/

/-- The condition code, bits 31:28 (R91). -/
def condF (w : Word) : BitVec 4 := w.extractLsb' 28 4
/-- The class group, bits 27:25 (R91). -/
def groupF (w : Word) : BitVec 3 := w.extractLsb' 25 3
/-- The data-processing opcode, bits 24:21 (R92). -/
def opcodeF (w : Word) : BitVec 4 := w.extractLsb' 21 4
/-- The set-flags bit of data processing, bit 20 (R92). -/
def sF (w : Word) : Bool := w.getLsbD 20
/-- Rn, bits 19:16 (R92, R98). -/
def rnF (w : Word) : RegIdx := w.extractLsb' 16 4
/-- Rd, bits 15:12 (R92, R99, R101). -/
def rdF (w : Word) : RegIdx := w.extractLsb' 12 4
/-- Rs, bits 11:8 (R92). -/
def rsF (w : Word) : RegIdx := w.extractLsb' 8 4
/-- Rm, bits 3:0 (R92, R97, R100, R101). -/
def rmF (w : Word) : RegIdx := w.extractLsb' 0 4
/-- The rotate field, bits 11:8 (R92, R100). -/
def rotF (w : Word) : BitVec 4 := w.extractLsb' 8 4
/-- The 8-bit immediate, bits 7:0 (R92, R100). -/
def imm8F (w : Word) : BitVec 8 := w.extractLsb' 0 8
/-- The immediate shift amount, bits 11:7 (R92). -/
def amtF (w : Word) : BitVec 5 := w.extractLsb' 7 5
/-- Bits 7:4, the secondary selector of group 000 (R105, R107, R108). -/
def selF (w : Word) : BitVec 4 := w.extractLsb' 4 4
/-- Bits 22:21, the selector inside the miscellaneous space (R107). -/
def miscOpF (w : Word) : BitVec 2 := w.extractLsb' 21 2
/-- The register list, bits 15:0 (R98). -/
def listF (w : Word) : BitVec 16 := w.extractLsb' 0 16
/-- The field mask of MSR, bits 19:16 (R100). -/
def maskF (w : Word) : BitVec 4 := w.extractLsb' 16 4
/-- The branch immediate, bits 23:0 (R95, R96). -/
def imm24F (w : Word) : BitVec 24 := w.extractLsb' 0 24

/-- The number of a shift kind (R114). -/
def ShiftType.code : ShiftType → BitVec 2
  | .lsl => 0b00 | .lsr => 0b01 | .asr => 0b10 | .ror => 0b11

/-- The shift kind of bits 6:5 (R114). -/
def shiftF (w : Word) : ShiftType :=
  match (w.extractLsb' 5 2).toNat with
  | 0 => .lsl | 1 => .lsr | 2 => .asr | _ => .ror

/-- The bit of a status register in MRS and MSR (R99, R100). -/
def Psr.code : Psr → BitVec 1
  | .cpsr => 0 | .spsr => 1

/-- The status register that bit 22 selects (R99, R100). -/
def psrF (w : Word) : Psr := if w.getLsbD 22 then .spsr else .cpsr

/-- The code of a condition (`41_condition_and_step.md` R150). -/
def Cond.code : Cond → BitVec 4
  | .eq => 0b0000 | .ne => 0b0001 | .cs => 0b0010 | .cc => 0b0011
  | .mi => 0b0100 | .pl => 0b0101 | .vs => 0b0110 | .vc => 0b0111
  | .hi => 0b1000 | .ls => 0b1001 | .ge => 0b1010 | .lt => 0b1011
  | .gt => 0b1100 | .le => 0b1101 | .al => 0b1110

/-- The condition of a code; none for 1111, which selects the unconditional space (R152). -/
def Cond.ofCode (code : BitVec 4) : Option Cond :=
  match code.toNat with
  | 0 => some .eq | 1 => some .ne | 2 => some .cs | 3 => some .cc
  | 4 => some .mi | 5 => some .pl | 6 => some .vs | 7 => some .vc
  | 8 => some .hi | 9 => some .ls | 10 => some .ge | 11 => some .lt
  | 12 => some .gt | 13 => some .le | 14 => some .al | _ => none

/-! ## The decode tree -/

/-- Why a word is no instruction: the six sets of R116, in that rule's order, and a byte list shorter than a word. The names
are the model's (log 10); what the machine does with each is the one `DecodeFailure` of R322. -/
inductive Reject where
  /-- Condition 1111 outside BLX immediate (R116 item 1). Safe: the spec's own decode failure. -/
  | unconditionalSpace
  /-- Group 001, opcode 10xx, S = 0, bit 21 = 0 (R116 item 2). Safe. -/
  | immediateMisc
  /-- Miscellaneous space, bits 7:4 one of 0010, 0100, 0110, 0111 (R116 item 3). Safe. -/
  | miscUnnamed
  /-- Miscellaneous space, bits 7:4 = 0001 and bits 22:21 = 00 or 10 (R116 item 4). Safe. -/
  | miscBxColumn
  /-- Miscellaneous space, bits 7:4 = 0011 and bits 22:21 other than 01 (R116 item 5). Safe. -/
  | miscBlxColumn
  /-- Bits 27:24 = 0001 with bits 7:4 = 1001 (R116 item 6). Safe. -/
  | swapOrExclusive
  /-- Fewer than four bytes were given (R90: every instruction is one 32-bit word). Safe: no step raises it. -/
  | tooFewBytes
deriving DecidableEq, Repr

/-- Data processing, format DP_IMM, by opcode (R92, R113). -/
def decodeDpImm (c : Cond) (w : Word) : Instr :=
  match (opcodeF w).toNat with
  | 0 => .andImm c (sF w) (rnF w) (rdF w) (rotF w) (imm8F w)
  | 1 => .eorImm c (sF w) (rnF w) (rdF w) (rotF w) (imm8F w)
  | 2 => .subImm c (sF w) (rnF w) (rdF w) (rotF w) (imm8F w)
  | 3 => .rsbImm c (sF w) (rnF w) (rdF w) (rotF w) (imm8F w)
  | 4 => .addImm c (sF w) (rnF w) (rdF w) (rotF w) (imm8F w)
  | 5 => .adcImm c (sF w) (rnF w) (rdF w) (rotF w) (imm8F w)
  | 6 => .sbcImm c (sF w) (rnF w) (rdF w) (rotF w) (imm8F w)
  | 7 => .rscImm c (sF w) (rnF w) (rdF w) (rotF w) (imm8F w)
  | 8 => .tstImm c (rnF w) (rotF w) (imm8F w)
  | 9 => .teqImm c (rnF w) (rotF w) (imm8F w)
  | 10 => .cmpImm c (rnF w) (rotF w) (imm8F w)
  | 11 => .cmnImm c (rnF w) (rotF w) (imm8F w)
  | 12 => .orrImm c (sF w) (rnF w) (rdF w) (rotF w) (imm8F w)
  | 13 => .movImm c (sF w) (rdF w) (rotF w) (imm8F w)
  | 14 => .bicImm c (sF w) (rnF w) (rdF w) (rotF w) (imm8F w)
  | _ => .mvnImm c (sF w) (rdF w) (rotF w) (imm8F w)

/-- Data processing, format DP_REG_IMMSHIFT, by opcode (R92, R113). -/
def decodeDpShImm (c : Cond) (w : Word) : Instr :=
  match (opcodeF w).toNat with
  | 0 => .andShImm c (sF w) (rnF w) (rdF w) (amtF w) (shiftF w) (rmF w)
  | 1 => .eorShImm c (sF w) (rnF w) (rdF w) (amtF w) (shiftF w) (rmF w)
  | 2 => .subShImm c (sF w) (rnF w) (rdF w) (amtF w) (shiftF w) (rmF w)
  | 3 => .rsbShImm c (sF w) (rnF w) (rdF w) (amtF w) (shiftF w) (rmF w)
  | 4 => .addShImm c (sF w) (rnF w) (rdF w) (amtF w) (shiftF w) (rmF w)
  | 5 => .adcShImm c (sF w) (rnF w) (rdF w) (amtF w) (shiftF w) (rmF w)
  | 6 => .sbcShImm c (sF w) (rnF w) (rdF w) (amtF w) (shiftF w) (rmF w)
  | 7 => .rscShImm c (sF w) (rnF w) (rdF w) (amtF w) (shiftF w) (rmF w)
  | 8 => .tstShImm c (rnF w) (amtF w) (shiftF w) (rmF w)
  | 9 => .teqShImm c (rnF w) (amtF w) (shiftF w) (rmF w)
  | 10 => .cmpShImm c (rnF w) (amtF w) (shiftF w) (rmF w)
  | 11 => .cmnShImm c (rnF w) (amtF w) (shiftF w) (rmF w)
  | 12 => .orrShImm c (sF w) (rnF w) (rdF w) (amtF w) (shiftF w) (rmF w)
  | 13 => .movShImm c (sF w) (rdF w) (amtF w) (shiftF w) (rmF w)
  | 14 => .bicShImm c (sF w) (rnF w) (rdF w) (amtF w) (shiftF w) (rmF w)
  | _ => .mvnShImm c (sF w) (rdF w) (amtF w) (shiftF w) (rmF w)

/-- Data processing, format DP_REG_REGSHIFT, by opcode (R92, R113). -/
def decodeDpShReg (c : Cond) (w : Word) : Instr :=
  match (opcodeF w).toNat with
  | 0 => .andShReg c (sF w) (rnF w) (rdF w) (rsF w) (shiftF w) (rmF w)
  | 1 => .eorShReg c (sF w) (rnF w) (rdF w) (rsF w) (shiftF w) (rmF w)
  | 2 => .subShReg c (sF w) (rnF w) (rdF w) (rsF w) (shiftF w) (rmF w)
  | 3 => .rsbShReg c (sF w) (rnF w) (rdF w) (rsF w) (shiftF w) (rmF w)
  | 4 => .addShReg c (sF w) (rnF w) (rdF w) (rsF w) (shiftF w) (rmF w)
  | 5 => .adcShReg c (sF w) (rnF w) (rdF w) (rsF w) (shiftF w) (rmF w)
  | 6 => .sbcShReg c (sF w) (rnF w) (rdF w) (rsF w) (shiftF w) (rmF w)
  | 7 => .rscShReg c (sF w) (rnF w) (rdF w) (rsF w) (shiftF w) (rmF w)
  | 8 => .tstShReg c (rnF w) (rsF w) (shiftF w) (rmF w)
  | 9 => .teqShReg c (rnF w) (rsF w) (shiftF w) (rmF w)
  | 10 => .cmpShReg c (rnF w) (rsF w) (shiftF w) (rmF w)
  | 11 => .cmnShReg c (rnF w) (rsF w) (shiftF w) (rmF w)
  | 12 => .orrShReg c (sF w) (rnF w) (rdF w) (rsF w) (shiftF w) (rmF w)
  | 13 => .movShReg c (sF w) (rdF w) (rsF w) (shiftF w) (rmF w)
  | 14 => .bicShReg c (sF w) (rnF w) (rdF w) (rsF w) (shiftF w) (rmF w)
  | _ => .mvnShReg c (sF w) (rdF w) (rsF w) (shiftF w) (rmF w)

/-- The multiply and extra load/store space, bit 7 = 1 and bit 4 = 1 (R108). -/
def decodeMulXls (c : Cond) (w : Word) : Except Reject Instr :=
  if selF w = 0b1001 then
    if w.getLsbD 24 then .error .swapOrExclusive else .ok (.mulClass c)
  else if selF w = 0b1011 then .ok (.xlsClassH c)
  else if selF w = 0b1101 then .ok (.xlsClassSb c)
  else .ok (.xlsClassSh c)

/-- The miscellaneous space (R107). -/
def decodeMisc (c : Cond) (w : Word) : Except Reject Instr :=
  if selF w = 0b0000 then
    if w.getLsbD 21 then .ok (.msrReg c (psrF w) (maskF w) (rmF w)) else .ok (.mrs c (psrF w) (rdF w))
  else if selF w = 0b0001 then
    if miscOpF w = 0b01 then .ok (.bx c (rmF w))
    else if miscOpF w = 0b11 then .ok (.clz c (rdF w) (rmF w))
    else .error .miscBxColumn
  else if selF w = 0b0011 then
    if miscOpF w = 0b01 then .ok (.blxReg c (rmF w)) else .error .miscBlxColumn
  else if selF w = 0b0101 then
    if miscOpF w = 0b00 then .ok (.qadd c)
    else if miscOpF w = 0b01 then .ok (.qsub c)
    else if miscOpF w = 0b10 then .ok (.qdadd c)
    else .ok (.qdsub c)
  else if w.getLsbD 7 then .ok (.smulClass c)
  else .error .miscUnnamed

/-- Bits 24:23 = 10 and bit 20 = 0: the opcodes of the comparisons with S = 0, split off from data processing (R105, R106). -/
def isMiscSpace (w : Word) : Bool := w.getLsbD 24 && !w.getLsbD 23 && !w.getLsbD 20

/-- Group 000, the four tests of R105 in order. -/
def decodeGroup0 (c : Cond) (w : Word) : Except Reject Instr :=
  if w.getLsbD 7 && w.getLsbD 4 then decodeMulXls c w
  else if isMiscSpace w then decodeMisc c w
  else if w.getLsbD 4 then .ok (decodeDpShReg c w)
  else .ok (decodeDpShImm c w)

/-- Group 001 (R106). -/
def decodeGroup1 (c : Cond) (w : Word) : Except Reject Instr :=
  if isMiscSpace w then
    if w.getLsbD 21 then .ok (.msrImm c (psrF w) (maskF w) (rotF w) (imm8F w)) else .error .immediateMisc
  else .ok (decodeDpImm c w)

/-- Group 100, load and store multiple, by L, S and bit 15 of the list (R110). -/
def decodeLsm (c : Cond) (w : Word) : Instr :=
  let p := w.getLsbD 24
  let u := w.getLsbD 23
  let wb := w.getLsbD 21
  if w.getLsbD 20 then
    if !w.getLsbD 22 then .ldm c p u wb (rnF w) (listF w)
    else if w.getLsbD 15 then .ldmRet c p u wb (rnF w) (listF w)
    else .ldmUser c p u wb (rnF w) (listF w)
  else
    if !w.getLsbD 22 then .stm c p u wb (rnF w) (listF w)
    else if w.getLsbD 15 then .stmSPc c p u wb (rnF w) (listF w)
    else .stmUser c p u wb (rnF w) (listF w)

/-- The group dispatch of the normal table (R104, R109, R111, R112). -/
def decodeNormal (c : Cond) (w : Word) : Except Reject Instr :=
  match (groupF w).toNat with
  | 0 => decodeGroup0 c w
  | 1 => decodeGroup1 c w
  | 2 => .ok (.lsImmClass c)
  | 3 => .ok (if w.getLsbD 4 then .mediaClass c else .lsRegClass c)
  | 4 => .ok (decodeLsm c w)
  | 5 => .ok (if w.getLsbD 24 then .bl c (imm24F w) else .b c (imm24F w))
  | 6 => .ok (.cpLsClass c)
  | _ => .ok (if w.getLsbD 24 then .swi c else .cpOpClass c)

/-- The unconditional space, condition code 1111 (R103): BLX immediate and nothing else. -/
def decodeUnconditional (w : Word) : Except Reject Instr :=
  if groupF w = 0b101 then .ok (.blxImm (w.getLsbD 24) (imm24F w)) else .error .unconditionalSpace

/-- The instruction of a 32-bit word, or the name of the set of R116 it lies in (R102 to R112). -/
def decodeWord (w : Word) : Except Reject Instr :=
  match Cond.ofCode (condF w) with
  | none => decodeUnconditional w
  | some c => decodeNormal c w

/-- A field written at a bit position, zeros around it (R8). -/
def atBit (n : Nat) (x : BitVec n) (pos : Nat) : Word := x.setWidth 32 <<< pos

/-- One bit written at a bit position. -/
def bitAt (b : Bool) (pos : Nat) : Word := atBit 1 (BitVec.ofBool b) pos

/-! ## Bytes: every word is stored little-endian (`20_memory.md` R63; `30_encoding.md` R90) -/

/-- The little-endian bytes of a word, lowest address first. -/
def wordBytes (w : Word) : List Byte :=
  [w.extractLsb' 0 8, w.extractLsb' 8 8, w.extractLsb' 16 8, w.extractLsb' 24 8]

/-- The word of four bytes, lowest address first. -/
def bytesWord (b0 b1 b2 b3 : Byte) : Word := atBit 8 b0 0 ||| atBit 8 b1 8 ||| atBit 8 b2 16 ||| atBit 8 b3 24

/-- The instruction at the head of a byte list, with the bytes after it. -/
def decode : List Byte → Except Reject (Instr × List Byte)
  | b0 :: b1 :: b2 :: b3 :: rest => (decodeWord (bytesWord b0 b1 b2 b3)).map fun i => (i, rest)
  | _ => .error .tooFewBytes

/-- The instruction the decoder reads from a table row's bits: `w` taken modulo 2^`nbits` (the bits above are 0), laid out as
the hardware stores it and given to `decode`; none where the decoder rejects it. -/
def decodeTableWord (nbits w : Nat) : Option Instr :=
  match decode (wordBytes (BitVec.ofNat 32 (w % 2 ^ nbits))) with
  | .ok (i, _) => some i
  | .error _ => none

/-! ## The encoder. Should-be-one fields are written as ones, should-be-zero fields and ignored register fields as zeros
(R97, R99 to R101, R121; log 5); a class row is written with the table's fixed bits and zeros elsewhere (log 6). -/

/-- Format DP_IMM (R92). -/
def encDpImm (c : Cond) (op : BitVec 4) (s : Bool) (rn rd : RegIdx) (rot : BitVec 4) (imm8 : BitVec 8) : Word :=
  atBit 4 c.code 28 ||| atBit 3 0b001 25 ||| atBit 4 op 21 ||| bitAt s 20 ||| atBit 4 rn 16 ||| atBit 4 rd 12 |||
  atBit 4 rot 8 ||| atBit 8 imm8 0

/-- Format DP_REG_IMMSHIFT (R92). -/
def encDpShImm (c : Cond) (op : BitVec 4) (s : Bool) (rn rd : RegIdx) (amt : BitVec 5) (ty : ShiftType) (rm : RegIdx) : Word :=
  atBit 4 c.code 28 ||| atBit 4 op 21 ||| bitAt s 20 ||| atBit 4 rn 16 ||| atBit 4 rd 12 ||| atBit 5 amt 7 |||
  atBit 2 ty.code 5 ||| atBit 4 rm 0

/-- Format DP_REG_REGSHIFT (R92). -/
def encDpShReg (c : Cond) (op : BitVec 4) (s : Bool) (rn rd rs : RegIdx) (ty : ShiftType) (rm : RegIdx) : Word :=
  atBit 4 c.code 28 ||| atBit 4 op 21 ||| bitAt s 20 ||| atBit 4 rn 16 ||| atBit 4 rd 12 ||| atBit 4 rs 8 |||
  atBit 2 ty.code 5 ||| bitAt true 4 ||| atBit 4 rm 0

/-- Load and store multiple (R98). -/
def encLsm (c : Cond) (p u s w l : Bool) (rn : RegIdx) (list : BitVec 16) : Word :=
  atBit 4 c.code 28 ||| atBit 3 0b100 25 ||| bitAt p 24 ||| bitAt u 23 ||| bitAt s 22 ||| bitAt w 21 ||| bitAt l 20 |||
  atBit 4 rn 16 ||| atBit 16 list 0

/-- A row whose only field is the condition. -/
def encClass (c : Cond) (rest : BitVec 28) : Word := atBit 4 c.code 28 ||| atBit 28 rest 0

/-- The word of an instruction. -/
def encode : Instr → Word
  | .andImm c s rn rd rot imm8 => encDpImm c 0b0000#4 s rn rd rot imm8
  | .andShImm c s rn rd amt ty rm => encDpShImm c 0b0000#4 s rn rd amt ty rm
  | .andShReg c s rn rd rs ty rm => encDpShReg c 0b0000#4 s rn rd rs ty rm
  | .eorImm c s rn rd rot imm8 => encDpImm c 0b0001#4 s rn rd rot imm8
  | .eorShImm c s rn rd amt ty rm => encDpShImm c 0b0001#4 s rn rd amt ty rm
  | .eorShReg c s rn rd rs ty rm => encDpShReg c 0b0001#4 s rn rd rs ty rm
  | .subImm c s rn rd rot imm8 => encDpImm c 0b0010#4 s rn rd rot imm8
  | .subShImm c s rn rd amt ty rm => encDpShImm c 0b0010#4 s rn rd amt ty rm
  | .subShReg c s rn rd rs ty rm => encDpShReg c 0b0010#4 s rn rd rs ty rm
  | .rsbImm c s rn rd rot imm8 => encDpImm c 0b0011#4 s rn rd rot imm8
  | .rsbShImm c s rn rd amt ty rm => encDpShImm c 0b0011#4 s rn rd amt ty rm
  | .rsbShReg c s rn rd rs ty rm => encDpShReg c 0b0011#4 s rn rd rs ty rm
  | .addImm c s rn rd rot imm8 => encDpImm c 0b0100#4 s rn rd rot imm8
  | .addShImm c s rn rd amt ty rm => encDpShImm c 0b0100#4 s rn rd amt ty rm
  | .addShReg c s rn rd rs ty rm => encDpShReg c 0b0100#4 s rn rd rs ty rm
  | .adcImm c s rn rd rot imm8 => encDpImm c 0b0101#4 s rn rd rot imm8
  | .adcShImm c s rn rd amt ty rm => encDpShImm c 0b0101#4 s rn rd amt ty rm
  | .adcShReg c s rn rd rs ty rm => encDpShReg c 0b0101#4 s rn rd rs ty rm
  | .sbcImm c s rn rd rot imm8 => encDpImm c 0b0110#4 s rn rd rot imm8
  | .sbcShImm c s rn rd amt ty rm => encDpShImm c 0b0110#4 s rn rd amt ty rm
  | .sbcShReg c s rn rd rs ty rm => encDpShReg c 0b0110#4 s rn rd rs ty rm
  | .rscImm c s rn rd rot imm8 => encDpImm c 0b0111#4 s rn rd rot imm8
  | .rscShImm c s rn rd amt ty rm => encDpShImm c 0b0111#4 s rn rd amt ty rm
  | .rscShReg c s rn rd rs ty rm => encDpShReg c 0b0111#4 s rn rd rs ty rm
  | .tstImm c rn rot imm8 => encDpImm c 0b1000#4 true rn 0 rot imm8
  | .tstShImm c rn amt ty rm => encDpShImm c 0b1000#4 true rn 0 amt ty rm
  | .tstShReg c rn rs ty rm => encDpShReg c 0b1000#4 true rn 0 rs ty rm
  | .teqImm c rn rot imm8 => encDpImm c 0b1001#4 true rn 0 rot imm8
  | .teqShImm c rn amt ty rm => encDpShImm c 0b1001#4 true rn 0 amt ty rm
  | .teqShReg c rn rs ty rm => encDpShReg c 0b1001#4 true rn 0 rs ty rm
  | .cmpImm c rn rot imm8 => encDpImm c 0b1010#4 true rn 0 rot imm8
  | .cmpShImm c rn amt ty rm => encDpShImm c 0b1010#4 true rn 0 amt ty rm
  | .cmpShReg c rn rs ty rm => encDpShReg c 0b1010#4 true rn 0 rs ty rm
  | .cmnImm c rn rot imm8 => encDpImm c 0b1011#4 true rn 0 rot imm8
  | .cmnShImm c rn amt ty rm => encDpShImm c 0b1011#4 true rn 0 amt ty rm
  | .cmnShReg c rn rs ty rm => encDpShReg c 0b1011#4 true rn 0 rs ty rm
  | .orrImm c s rn rd rot imm8 => encDpImm c 0b1100#4 s rn rd rot imm8
  | .orrShImm c s rn rd amt ty rm => encDpShImm c 0b1100#4 s rn rd amt ty rm
  | .orrShReg c s rn rd rs ty rm => encDpShReg c 0b1100#4 s rn rd rs ty rm
  | .movImm c s rd rot imm8 => encDpImm c 0b1101#4 s 0 rd rot imm8
  | .movShImm c s rd amt ty rm => encDpShImm c 0b1101#4 s 0 rd amt ty rm
  | .movShReg c s rd rs ty rm => encDpShReg c 0b1101#4 s 0 rd rs ty rm
  | .bicImm c s rn rd rot imm8 => encDpImm c 0b1110#4 s rn rd rot imm8
  | .bicShImm c s rn rd amt ty rm => encDpShImm c 0b1110#4 s rn rd amt ty rm
  | .bicShReg c s rn rd rs ty rm => encDpShReg c 0b1110#4 s rn rd rs ty rm
  | .mvnImm c s rd rot imm8 => encDpImm c 0b1111#4 s 0 rd rot imm8
  | .mvnShImm c s rd amt ty rm => encDpShImm c 0b1111#4 s 0 rd amt ty rm
  | .mvnShReg c s rd rs ty rm => encDpShReg c 0b1111#4 s 0 rd rs ty rm
  | .mrs c psr rd => atBit 4 c.code 28 ||| atBit 5 0b00010 23 ||| atBit 1 psr.code 22 ||| atBit 4 0b1111 16 ||| atBit 4 rd 12
  | .msrReg c psr mask rm => atBit 4 c.code 28 ||| atBit 5 0b00010 23 ||| atBit 1 psr.code 22 ||| bitAt true 21 |||
      atBit 4 mask 16 ||| atBit 4 0b1111 12 ||| atBit 4 rm 0
  | .msrImm c psr mask rot imm8 => atBit 4 c.code 28 ||| atBit 5 0b00110 23 ||| atBit 1 psr.code 22 ||| bitAt true 21 |||
      atBit 4 mask 16 ||| atBit 4 0b1111 12 ||| atBit 4 rot 8 ||| atBit 8 imm8 0
  | .bx c rm => atBit 4 c.code 28 ||| atBit 24 0x12FFF1 4 ||| atBit 4 rm 0
  | .blxReg c rm => atBit 4 c.code 28 ||| atBit 24 0x12FFF3 4 ||| atBit 4 rm 0
  | .clz c rd rm => atBit 4 c.code 28 ||| atBit 12 0x16F 16 ||| atBit 4 rd 12 ||| atBit 8 0xF1 4 ||| atBit 4 rm 0
  | .qadd c => encClass c 0x1000050
  | .qsub c => encClass c 0x1200050
  | .qdadd c => encClass c 0x1400050
  | .qdsub c => encClass c 0x1600050
  | .smulClass c => encClass c 0x1000080
  | .mulClass c => encClass c 0x0000090
  | .xlsClassH c => encClass c 0x00000B0
  | .xlsClassSb c => encClass c 0x00000D0
  | .xlsClassSh c => encClass c 0x00000F0
  | .lsImmClass c => encClass c 0x4000000
  | .lsRegClass c => encClass c 0x6000000
  | .mediaClass c => encClass c 0x6000010
  | .ldm c p u w rn list => encLsm c p u false w true rn list
  | .ldmUser c p u w rn list => encLsm c p u true w true rn list
  | .ldmRet c p u w rn list => encLsm c p u true w true rn list
  | .stm c p u w rn list => encLsm c p u false w false rn list
  | .stmUser c p u w rn list => encLsm c p u true w false rn list
  | .stmSPc c p u w rn list => encLsm c p u true w false rn list
  | .b c imm24 => atBit 4 c.code 28 ||| atBit 4 0b1010 24 ||| atBit 24 imm24 0
  | .bl c imm24 => atBit 4 c.code 28 ||| atBit 4 0b1011 24 ||| atBit 24 imm24 0
  | .cpLsClass c => encClass c 0xC000000
  | .cpOpClass c => encClass c 0xE000000
  | .swi c => encClass c 0xF000000
  | .blxImm h imm24 => atBit 4 0b1111 28 ||| atBit 3 0b101 25 ||| bitAt h 24 ||| atBit 24 imm24 0

/-- The bytes of an instruction as memory holds them. -/
def encodeBytes (i : Instr) : List Byte := wordBytes (encode i)

/-! ## The opcode table as data (R120) -/

/-- One row of `spec/opcode_table.json`: its fixed bits, and whether it stands in the normal table, whose rows exclude
condition code 1111 (R120). -/
structure TableRow where
  mask : Word
  value : Word
  normal : Bool
deriving DecidableEq, Repr

/-- A word selects a row (R120). -/
def TableRow.selects (r : TableRow) (w : Word) : Bool :=
  (w &&& r.mask == r.value) && !(r.normal && condF w == 0b1111)

/-- The 48 data-processing rows, in the table's order. -/
def tableDataProcessing : List TableRow := [
  ⟨0x0fe00000, 0x02000000, true⟩, ⟨0x0fe00010, 0x00000000, true⟩, ⟨0x0fe00090, 0x00000010, true⟩,
  ⟨0x0fe00000, 0x02200000, true⟩, ⟨0x0fe00010, 0x00200000, true⟩, ⟨0x0fe00090, 0x00200010, true⟩,
  ⟨0x0fe00000, 0x02400000, true⟩, ⟨0x0fe00010, 0x00400000, true⟩, ⟨0x0fe00090, 0x00400010, true⟩,
  ⟨0x0fe00000, 0x02600000, true⟩, ⟨0x0fe00010, 0x00600000, true⟩, ⟨0x0fe00090, 0x00600010, true⟩,
  ⟨0x0fe00000, 0x02800000, true⟩, ⟨0x0fe00010, 0x00800000, true⟩, ⟨0x0fe00090, 0x00800010, true⟩,
  ⟨0x0fe00000, 0x02a00000, true⟩, ⟨0x0fe00010, 0x00a00000, true⟩, ⟨0x0fe00090, 0x00a00010, true⟩,
  ⟨0x0fe00000, 0x02c00000, true⟩, ⟨0x0fe00010, 0x00c00000, true⟩, ⟨0x0fe00090, 0x00c00010, true⟩,
  ⟨0x0fe00000, 0x02e00000, true⟩, ⟨0x0fe00010, 0x00e00000, true⟩, ⟨0x0fe00090, 0x00e00010, true⟩,
  ⟨0x0ff00000, 0x03100000, true⟩, ⟨0x0ff00010, 0x01100000, true⟩, ⟨0x0ff00090, 0x01100010, true⟩,
  ⟨0x0ff00000, 0x03300000, true⟩, ⟨0x0ff00010, 0x01300000, true⟩, ⟨0x0ff00090, 0x01300010, true⟩,
  ⟨0x0ff00000, 0x03500000, true⟩, ⟨0x0ff00010, 0x01500000, true⟩, ⟨0x0ff00090, 0x01500010, true⟩,
  ⟨0x0ff00000, 0x03700000, true⟩, ⟨0x0ff00010, 0x01700000, true⟩, ⟨0x0ff00090, 0x01700010, true⟩,
  ⟨0x0fe00000, 0x03800000, true⟩, ⟨0x0fe00010, 0x01800000, true⟩, ⟨0x0fe00090, 0x01800010, true⟩,
  ⟨0x0fe00000, 0x03a00000, true⟩, ⟨0x0fe00010, 0x01a00000, true⟩, ⟨0x0fe00090, 0x01a00010, true⟩,
  ⟨0x0fe00000, 0x03c00000, true⟩, ⟨0x0fe00010, 0x01c00000, true⟩, ⟨0x0fe00090, 0x01c00010, true⟩,
  ⟨0x0fe00000, 0x03e00000, true⟩, ⟨0x0fe00010, 0x01e00000, true⟩, ⟨0x0fe00090, 0x01e00010, true⟩]

/-- The miscellaneous, multiply, load/store and media rows. -/
def tableMisc : List TableRow := [
  ⟨0x0fb000f0, 0x01000000, true⟩, ⟨0x0fb000f0, 0x01200000, true⟩, ⟨0x0fb00000, 0x03200000, true⟩,
  ⟨0x0ff000f0, 0x01200010, true⟩, ⟨0x0ff000f0, 0x01200030, true⟩, ⟨0x0ff000f0, 0x01600010, true⟩,
  ⟨0x0ff000f0, 0x01000050, true⟩, ⟨0x0ff000f0, 0x01200050, true⟩, ⟨0x0ff000f0, 0x01400050, true⟩,
  ⟨0x0ff000f0, 0x01600050, true⟩, ⟨0x0f900090, 0x01000080, true⟩, ⟨0x0f0000f0, 0x00000090, true⟩,
  ⟨0x0e0000f0, 0x000000b0, true⟩, ⟨0x0e0000f0, 0x000000d0, true⟩, ⟨0x0e0000f0, 0x000000f0, true⟩,
  ⟨0x0e000000, 0x04000000, true⟩, ⟨0x0e000010, 0x06000000, true⟩, ⟨0x0e000010, 0x06000010, true⟩]

/-- The block transfers, branches, coprocessor rows, SWI and BLX immediate. -/
def tableRest : List TableRow := [
  ⟨0x0e500000, 0x08100000, true⟩, ⟨0x0e508000, 0x08500000, true⟩, ⟨0x0e508000, 0x08508000, true⟩,
  ⟨0x0e500000, 0x08000000, true⟩, ⟨0x0e508000, 0x08400000, true⟩, ⟨0x0e508000, 0x08408000, true⟩,
  ⟨0x0f000000, 0x0a000000, true⟩, ⟨0x0f000000, 0x0b000000, true⟩, ⟨0x0e000000, 0x0c000000, true⟩,
  ⟨0x0f000000, 0x0e000000, true⟩, ⟨0x0f000000, 0x0f000000, true⟩, ⟨0xfe000000, 0xfa000000, false⟩]

/-- All 78 rows of `spec/opcode_table.json`, in its order. -/
def opcodeTable : List TableRow := tableDataProcessing ++ tableMisc ++ tableRest

/-- The row an instruction stands for: its place in `opcodeTable`. -/
def Instr.rowIndex : Instr → Nat
  | .andImm .. => 0
  | .andShImm .. => 1
  | .andShReg .. => 2
  | .eorImm .. => 3
  | .eorShImm .. => 4
  | .eorShReg .. => 5
  | .subImm .. => 6
  | .subShImm .. => 7
  | .subShReg .. => 8
  | .rsbImm .. => 9
  | .rsbShImm .. => 10
  | .rsbShReg .. => 11
  | .addImm .. => 12
  | .addShImm .. => 13
  | .addShReg .. => 14
  | .adcImm .. => 15
  | .adcShImm .. => 16
  | .adcShReg .. => 17
  | .sbcImm .. => 18
  | .sbcShImm .. => 19
  | .sbcShReg .. => 20
  | .rscImm .. => 21
  | .rscShImm .. => 22
  | .rscShReg .. => 23
  | .tstImm .. => 24
  | .tstShImm .. => 25
  | .tstShReg .. => 26
  | .teqImm .. => 27
  | .teqShImm .. => 28
  | .teqShReg .. => 29
  | .cmpImm .. => 30
  | .cmpShImm .. => 31
  | .cmpShReg .. => 32
  | .cmnImm .. => 33
  | .cmnShImm .. => 34
  | .cmnShReg .. => 35
  | .orrImm .. => 36
  | .orrShImm .. => 37
  | .orrShReg .. => 38
  | .movImm .. => 39
  | .movShImm .. => 40
  | .movShReg .. => 41
  | .bicImm .. => 42
  | .bicShImm .. => 43
  | .bicShReg .. => 44
  | .mvnImm .. => 45
  | .mvnShImm .. => 46
  | .mvnShReg .. => 47
  | .mrs .. => 48
  | .msrReg .. => 49
  | .msrImm .. => 50
  | .bx .. => 51
  | .blxReg .. => 52
  | .clz .. => 53
  | .qadd .. => 54
  | .qsub .. => 55
  | .qdadd .. => 56
  | .qdsub .. => 57
  | .smulClass .. => 58
  | .mulClass .. => 59
  | .xlsClassH .. => 60
  | .xlsClassSb .. => 61
  | .xlsClassSh .. => 62
  | .lsImmClass .. => 63
  | .lsRegClass .. => 64
  | .mediaClass .. => 65
  | .ldm .. => 66
  | .ldmUser .. => 67
  | .ldmRet .. => 68
  | .stm .. => 69
  | .stmUser .. => 70
  | .stmSPc .. => 71
  | .b .. => 72
  | .bl .. => 73
  | .cpLsClass .. => 74
  | .cpOpClass .. => 75
  | .swi .. => 76
  | .blxImm .. => 77

end Sys2Proof
end

