-- ==== Sys2Proof/Machine/Mode.lean ====
section
/-! DEFINITION. The seven processor modes and their encodings in CPSR.M (`10_state.md` R31, `40_register_bank.md` R139). -/

namespace Sys2Proof.Machine

/-- The processor modes, by the short names of R31. -/
inductive Mode where
  | usr | fiq | irq | svc | abt | und | sys
deriving DecidableEq, Repr

/-- `ModeOf`: the mode a 5-bit mode field names; none for the 25 values that name no mode (R31, R139). -/
def modeOf (m5 : BitVec 5) : Option Mode :=
  if m5 = 0x10 then some .usr
  else if m5 = 0x11 then some .fiq
  else if m5 = 0x12 then some .irq
  else if m5 = 0x13 then some .svc
  else if m5 = 0x17 then some .abt
  else if m5 = 0x1B then some .und
  else if m5 = 0x1F then some .sys
  else none

/-- The mode field of a status-register value, bits 4:0 (R27). -/
def modeField (v : Word) : BitVec 5 := v.extractLsb' 0 5

/-- User is the one unprivileged mode (`60_exceptions.md` R335). -/
def Mode.privileged : Mode → Bool
  | .usr => false
  | .fiq | .irq | .svc | .abt | .und | .sys => true

/-- Whether a mode has an SPSR slot of its own (R31, R34): User and System have none. -/
def Mode.hasSpsr : Mode → Bool
  | .usr | .sys => false
  | .fiq | .irq | .svc | .abt | .und => true

end Sys2Proof.Machine
end

