-- ==== Sys2Proof/Config.lean ====
section
/-! DEFINITION. The three parameters of the core (`00_scope.md` R7, decisions D25 and D27). There is no other implementation
choice and no free value: after the spec's decisions every behaviour has one outcome (`93_implementation_defined.md`). -/

namespace Sys2Proof

/-- What an implementation fixes for the life of a core (R7, R40). -/
structure Config where
  /-- `MEM_SIZE`, the capacity of the memory device in bytes. -/
  memSize : Nat
  /-- `RESET_PC`, the value of R15 after reset. -/
  resetPc : Word
  /-- `RESET_CPSR`, the value of CPSR after reset. -/
  resetCpsr : Word
deriving DecidableEq, Repr

/-- The configurations R7 admits: 1 <= `MEM_SIZE` <= 2^32, a valid mode in `RESET_CPSR`, and `RESET_CPSR[5]` = 0. The others
are to be refused (U2, U3). -/
def Config.valid (c : Config) : Bool :=
  decide (1 ≤ c.memSize) && decide (c.memSize ≤ 2 ^ 32) &&
  (Machine.modeOf (Machine.modeField c.resetCpsr)).isSome && !c.resetCpsr.getLsbD 5

/-- The defaults of R7 for `RESET_PC` and `RESET_CPSR` (log 3); for `MEM_SIZE`, which has no default, the value the spec's
examples use, 0x00010000 (D25). DESIGN CHOICE (log 2). -/
def Config.default : Config := { memSize := 0x10000, resetPc := 0x00000000, resetCpsr := 0x000000D3 }

end Sys2Proof
end

