-- ==== Sys2Proof/Machine/State.lean ====
section
/-! DEFINITION. The state of the core, every element of `10_state.md` (R20 to R42) and of `20_memory.md` R61, as plain data;
the fatal errors of `60_exceptions.md` R321; the state after reset (R42). -/

namespace Sys2Proof.Machine

/-- The class labels that `Unimplemented` carries (`47_unimplemented_classes.md` R310). -/
inductive StubClass where
  | multiply | saturatingArithmetic | signedMultiply | extraLoadStore | loadStore | media | coprocessor | softwareInterrupt
  | thumb
deriving DecidableEq, Repr

/-- The five fatal errors with the information each records (R321). The spec renders a fatal error as state: `raise`
(`Machine/Ops.lean`) puts it into `State.err`, sets `State.halted`, and the step ends in that next state (R320; log 1). The
one place that answers a value of this type as the outcome `fault` is a driver's own memory call (`Machine/Driver.lean`,
log 8). -/
inductive Fault where
  /-- Raised by the decoder on a word of R116 whose condition passed; carries the word (R322). Safe: the spec's own halt. -/
  | decodeFailure (word : Word)
  /-- Raised by every stub class and by every step in Thumb state; carries the class label (R323). Safe. -/
  | unimplemented (cls : StubClass)
  /-- Raised by the fetch and by each LDM or STM transfer that is out of range, and answered to a driver whose memory call is
  out of range; carries the start address (R324). Safe. -/
  | addressError (addr : Word)
  /-- Raised when a value whose bits 4:0 are no mode is about to be written to CPSR; carries the value (R325). Safe. -/
  | invalidMode (value : Word)
  /-- Raised when an instruction would access SPSR in User or System mode; carries the mode (R327). Safe. -/
  | spsrAccess (mode : Mode)
deriving DecidableEq, Repr

/-- Why a call is turned away without any meaning. -/
inductive Refusal where
  /-- An instruction without a meaning yet, by mnemonic: raised by `exec`'s refused arms only, of which there are none. Safe. -/
  | notModelled (mnemonic : String)
  /-- Construction with parameters outside R7: raised by `construct` only (U2, U3). Safe. -/
  | badConfig
  /-- A driver call after `dispose()`: raised by `driverCall` only (R355, U25). Safe. -/
  | afterDispose
deriving DecidableEq, Repr

/-- The memory device (`20_memory.md` R60, R61): its capacity `MEM_SIZE`, which nothing changes after construction, and its
contents as the cells that do not hold 0x00, in rising order of address (log 2, log 9). -/
structure Memory where
  /-- `MEM_SIZE`: the valid addresses are 0 to `size` - 1. -/
  size : Nat
  /-- Every byte other than 0x00, with its address. -/
  cells : List Host.Cell
deriving DecidableEq, Repr

/-- The state of the core. -/
structure State where
  /-- R0 to R15 of the active file (R20); R15 is `pc` (R23). -/
  regs : Vector Word 16
  /-- The Current Program Status Register (R26, R27). -/
  cpsr : Word
  /-- The active Saved Program Status Register (R33). -/
  spsr : Word
  /-- The current-mode register of the register bank (R35). -/
  mode : Mode
  /-- `bank_usr[0..6]`: R8 to R14 of User and System, R8 to R12 of every mode but FIQ (R25, R132). -/
  bankUsr : Vector Word 7
  /-- `bank_fiq[0..6]`: R8 to R14 of FIQ (R25). -/
  bankFiq : Vector Word 7
  /-- `bank_irq[0..1]`: R13, R14 of IRQ (R25). -/
  bankIrq : Vector Word 2
  /-- `bank_svc[0..1]`: R13, R14 of Supervisor (R25). -/
  bankSvc : Vector Word 2
  /-- `bank_abt[0..1]`: R13, R14 of Abort (R25). -/
  bankAbt : Vector Word 2
  /-- `bank_und[0..1]`: R13, R14 of Undefined (R25). -/
  bankUnd : Vector Word 2
  /-- The SPSR slot of FIQ (R25, R34). -/
  spsrFiq : Word
  /-- The SPSR slot of IRQ (R25, R34). -/
  spsrIrq : Word
  /-- The SPSR slot of Supervisor (R25, R34). -/
  spsrSvc : Word
  /-- The SPSR slot of Abort (R25, R34). -/
  spsrAbt : Word
  /-- The SPSR slot of Undefined (R25, R34). -/
  spsrUnd : Word
  /-- `IR`, the word or zero-extended halfword last fetched (R38). -/
  ir : Word
  /-- Set by a fatal error, cleared only by reset (R38). -/
  halted : Bool
  /-- The fatal error that set `halted` (R38, R321). -/
  err : Option Fault
  /-- The memory device (R61). -/
  mem : Memory
deriving DecidableEq, Repr

/-- Every element of core state but the memory at its value after reset, for the given parameters (R42, R350); an inadmissible
`RESET_CPSR`, which `construct` refuses, would leave Supervisor. -/
def State.resetCore (c : Config) (m : Memory) : State where
  regs := (Vector.replicate 16 0).set 15 c.resetPc
  cpsr := c.resetCpsr
  spsr := 0
  mode := (modeOf (modeField c.resetCpsr)).getD .svc
  bankUsr := Vector.replicate 7 0
  bankFiq := Vector.replicate 7 0
  bankIrq := Vector.replicate 2 0
  bankSvc := Vector.replicate 2 0
  bankAbt := Vector.replicate 2 0
  bankUnd := Vector.replicate 2 0
  spsrFiq := 0
  spsrIrq := 0
  spsrSvc := 0
  spsrAbt := 0
  spsrUnd := 0
  ir := 0
  halted := false
  err := none
  mem := m

/-- The core as construction leaves it: every byte of memory 0x00, then the reset state (R351). -/
def State.constructed (c : Config) : State := State.resetCore c { size := c.memSize, cells := [] }

/-- The machine right after construction and reset with the parameters of `Config.default` (R42, R351; log 2, log 3). -/
def State.reset : State := State.constructed Config.default

end Sys2Proof.Machine
end

