-- ==== Sys2Proof/Machine/Flags.lean ====
section
/-! DEFINITION. Flags: the three-state flag update, the adder, the flag write of data processing and the condition evaluator
(`42_shifter_alu.md` R180 to R198, `41_condition_and_step.md` R150 to R152). All of it is pure (R151, R180). -/

namespace Sys2Proof.Machine

/-- A flag-update value (`00_scope.md` R11). -/
inductive FlagUpd where
  | set | unset | pass
deriving DecidableEq, Repr

/-- A carry of 1 is `Set`, a carry of 0 is `Unset` (R11). -/
def FlagUpd.ofBool (b : Bool) : FlagUpd := if b then .set else .unset

/-- What a flag holds after an update, from what it held before (R11). -/
def FlagUpd.apply (u : FlagUpd) (old : Bool) : Bool :=
  match u with
  | .set => true
  | .unset => false
  | .pass => old

/-- A word with bit `i` set to `b` and every other bit kept. -/
def setBit (v : Word) (i : Nat) (b : Bool) : Word :=
  if b then v ||| (1#32 <<< i) else v &&& ~~~(1#32 <<< i)

/-! ## The fields of CPSR (`10_state.md` R27) -/

/-- N, CPSR[31]. -/
def flagN (cpsr : Word) : Bool := cpsr.getLsbD 31
/-- Z, CPSR[30]. -/
def flagZ (cpsr : Word) : Bool := cpsr.getLsbD 30
/-- C, CPSR[29]. -/
def flagC (cpsr : Word) : Bool := cpsr.getLsbD 29
/-- V, CPSR[28]. -/
def flagV (cpsr : Word) : Bool := cpsr.getLsbD 28
/-- T, CPSR[5], the instruction state: false ARM, true Thumb (R30). -/
def flagT (cpsr : Word) : Bool := cpsr.getLsbD 5

/-- CPSR with T written, `setInstrState` of R30. -/
def withT (cpsr : Word) (t : Bool) : Word := setBit cpsr 5 t

/-- CPSR with all four condition flags written. -/
def withNZCV (cpsr : Word) (n z c v : Bool) : Word :=
  setBit (setBit (setBit (setBit cpsr 31 n) 30 z) 29 c) 28 v

/-- `SetNZCV(r, cf, vf)`: N and Z from the result, C and V unless `Pass`; no other CPSR bit changes (R197). -/
def setNZCV (cpsr r : Word) (cf vf : FlagUpd) : Word :=
  withNZCV cpsr (r.getLsbD 31) (r == 0) (cf.apply (flagC cpsr)) (vf.apply (flagV cpsr))

/-! ## The condition evaluator -/

/-- `CondPassed(code)` on the four flags (R150); code 1111 always passes (R152). -/
def condHolds (code : BitVec 4) (n z c v : Bool) : Bool :=
  match code.toNat with
  | 0 => z
  | 1 => !z
  | 2 => c
  | 3 => !c
  | 4 => n
  | 5 => !n
  | 6 => v
  | 7 => !v
  | 8 => c && !z
  | 9 => !c || z
  | 10 => n == v
  | 11 => n != v
  | 12 => !z && n == v
  | 13 => z || n != v
  | _ => true

/-- `CondPassed(code)`: it reads CPSR[31:28] and nothing else (R151). -/
def condPassed (code : BitVec 4) (cpsr : Word) : Bool :=
  condHolds code (flagN cpsr) (flagZ cpsr) (flagC cpsr) (flagV cpsr)

/-! ## The adder and the sixteen ALU functions -/

/-- What an opcode's function gives: the result and the two flag updates (R198, R210). -/
structure AluOut where
  r : Word
  cf : FlagUpd
  vf : FlagUpd
deriving DecidableEq, Repr

/-- A shifter operand: the second ALU input and the shifter carry-out (R183). -/
structure ShifterOut where
  op2 : Word
  sco : FlagUpd
deriving DecidableEq, Repr

/-- `AddWithCarry(a, b, cin)`: carry is the unbounded sum leaving 32 bits, overflow is two inputs of one sign with a result of
the other (R194). -/
def addWithCarry (a b : Word) (cin : Bool) : AluOut :=
  let u : Nat := a.toNat + b.toNat + cin.toNat
  let r : Word := BitVec.ofNat 32 u
  { r := r
    cf := FlagUpd.ofBool (decide (2 ^ 32 ≤ u))
    vf := FlagUpd.ofBool (a.getLsbD 31 == b.getLsbD 31 && r.getLsbD 31 != a.getLsbD 31) }

/-- A logical opcode: the shifter carry-out is the carry update and V is passed (R198). -/
def logical (r : Word) (sco : FlagUpd) : AluOut := { r := r, cf := sco, vf := .pass }

/-- AND (R214). -/
def aluAnd (a : Word) (o : ShifterOut) : AluOut := logical (a &&& o.op2) o.sco
/-- EOR (R215). -/
def aluEor (a : Word) (o : ShifterOut) : AluOut := logical (a ^^^ o.op2) o.sco
/-- SUB, a - op2 through the adder (R216, R196). -/
def aluSub (a : Word) (o : ShifterOut) : AluOut := addWithCarry a (~~~o.op2) true
/-- RSB, op2 - a (R217). -/
def aluRsb (a : Word) (o : ShifterOut) : AluOut := addWithCarry o.op2 (~~~a) true
/-- ADD (R218). -/
def aluAdd (a : Word) (o : ShifterOut) : AluOut := addWithCarry a o.op2 false
/-- ADC, with C as it was before the instruction (R219, R199). -/
def aluAdc (a : Word) (o : ShifterOut) (c : Bool) : AluOut := addWithCarry a o.op2 c
/-- SBC, a - op2 - (1 - C) (R220). -/
def aluSbc (a : Word) (o : ShifterOut) (c : Bool) : AluOut := addWithCarry a (~~~o.op2) c
/-- RSC, op2 - a - (1 - C) (R221). -/
def aluRsc (a : Word) (o : ShifterOut) (c : Bool) : AluOut := addWithCarry o.op2 (~~~a) c
/-- TST (R222). -/
def aluTst (a : Word) (o : ShifterOut) : AluOut := logical (a &&& o.op2) o.sco
/-- TEQ (R223). -/
def aluTeq (a : Word) (o : ShifterOut) : AluOut := logical (a ^^^ o.op2) o.sco
/-- CMP (R224). -/
def aluCmp (a : Word) (o : ShifterOut) : AluOut := addWithCarry a (~~~o.op2) true
/-- CMN (R225). -/
def aluCmn (a : Word) (o : ShifterOut) : AluOut := addWithCarry a o.op2 false
/-- ORR (R226). -/
def aluOrr (a : Word) (o : ShifterOut) : AluOut := logical (a ||| o.op2) o.sco
/-- MOV, which reads no Rn (R227). -/
def aluMov (o : ShifterOut) : AluOut := logical o.op2 o.sco
/-- BIC (R228). -/
def aluBic (a : Word) (o : ShifterOut) : AluOut := logical (a &&& ~~~o.op2) o.sco
/-- MVN, which reads no Rn (R229). -/
def aluMvn (o : ShifterOut) : AluOut := logical (~~~o.op2) o.sco

end Sys2Proof.Machine
end

