-- ==== Sys2Proof/Machine/Ops.lean ====
section
/-! DEFINITION. The named operations over memory, the register bank and the status registers (`20_memory.md`,
`40_register_bank.md`), the fatal error as ONE shared operation `State.raise` (`60_exceptions.md` R320) and, beside it, the
return that restores CPSR from SPSR (`43_data_processing.md` R212). -/

namespace Sys2Proof.Machine

/-! ## Memory (`20_memory.md`) -/

/-- The byte a cell list holds at an address: 0x00 where none is listed, since memory is zero-initialized (R61; log 9). -/
def cellsRead : List Host.Cell → Nat → Byte
  | [], _ => 0
  | (k, v) :: rest, a => if k = a then v else cellsRead rest a

/-- A cell list with one byte written, kept in canonical form: rising addresses and no cell of 0x00 (log 9). -/
def cellsWrite : List Host.Cell → Nat → Byte → List Host.Cell
  | [], a, b => if b = 0 then [] else [(a, b)]
  | (k, v) :: rest, a, b =>
    if a < k then (if b = 0 then (k, v) :: rest else (a, b) :: (k, v) :: rest)
    else if a = k then (if b = 0 then rest else (a, b) :: rest)
    else (k, v) :: cellsWrite rest a b

/-- Cells at addresses from `lo` on, strictly rising and below `size`, none holding 0x00. -/
def cellsWf (size : Nat) : Nat → List Host.Cell → Bool
  | _, [] => true
  | lo, (k, v) :: rest => decide (lo ≤ k) && decide (k < size) && !(v == 0) && cellsWf size (k + 1) rest

/-- The canonical form of memory: every cell inside the device, in rising order, none equal to what an unlisted address reads
as. -/
def Memory.wf (m : Memory) : Bool := cellsWf m.size 0 m.cells

/-- `mem[a]` (R61). -/
def Memory.byte (m : Memory) (a : Nat) : Byte := cellsRead m.cells a

/-- Memory with one byte written. -/
def Memory.setByte (m : Memory) (a : Nat) (b : Byte) : Memory := { m with cells := cellsWrite m.cells a b }

/-- The number that `n` bytes from `a` on make, little-endian: the sum of `mem[a + k] * 256^k` (R64). -/
def Memory.bytesAt (m : Memory) (a : Nat) : Nat → Nat
  | 0 => 0
  | n + 1 => (m.byte a).toNat + 256 * m.bytesAt (a + 1) n

/-- Memory with the low `n` bytes of `v` written from `a` on, little-endian: `mem[a + k] <- v[8k+7 : 8k]` (R65). -/
def Memory.setBytes (m : Memory) (a : Nat) (v : Word) : Nat → Memory
  | 0 => m
  | n + 1 => (m.setByte a (v.setWidth 8)).setBytes (a + 1) (v >>> 8) n

/-- The access widths of the memory device (R62). -/
inductive Width where
  | byte | half | word
deriving DecidableEq, Repr

/-- The number of bytes of an access (R62). -/
def Width.bytes : Width → Nat
  | .byte => 1 | .half => 2 | .word => 4

/-- Whether an access lies inside the device; the sum is not wrapped (R66). -/
def Memory.inRange (m : Memory) (a : Word) (n : Width) : Bool := decide (a.toNat + n.bytes ≤ m.size)

/-- `MemRead(addr, n)`, zero-extended to 32 bits (R64); it changes nothing. No access needs alignment (R67). -/
def memRead (m : Memory) (a : Word) (n : Width) : Except Fault Word :=
  if m.inRange a n then .ok (BitVec.ofNat 32 (m.bytesAt a.toNat n.bytes)) else .error (.addressError a)

/-- `MemWrite(addr, n, v)`: nothing is written when the access is out of range (R65). -/
def memWrite (m : Memory) (a : Word) (n : Width) (v : Word) : Except Fault Memory :=
  if m.inRange a n then .ok (m.setBytes a.toNat v n.bytes) else .error (.addressError a)

/-! ## General registers (`40_register_bank.md` R130, R131) -/

/-- `x[i]`, the active general register; R15 reads as stored, with no offset (R130). -/
def State.read (s : State) (i : RegIdx) : Word := s.regs[i.toNat]'(i.isLt)

/-- `x[i] <- v` (R131); register 15 is `pc` (R23). -/
def State.write (s : State) (i : RegIdx) (v : Word) : State := { s with regs := s.regs.set i.toNat v i.isLt }

/-- `pc`, the same storage as `x[15]` (R23). -/
def State.pc (s : State) : Word := s.read pcIdx

/-- `pc <- v`. -/
def State.setPc (s : State) (v : Word) : State := s.write pcIdx v

/-! ## The fatal error, and what an instruction's body answers -/

/-- `raise K(info)`: record the error and halt; nothing else changes (R320). -/
def State.raise (s : State) (f : Fault) : State := { s with halted := true, err := some f }

/-- The outcome of an instruction's body: it ran to its end, or it raised an error at some state, whose rest is then abandoned
(R320). -/
inductive Run where
  | ok (s : State)
  | err (s : State) (f : Fault)
deriving DecidableEq, Repr

/-- Go on with the rest of the body unless an error was raised. -/
def Run.andThen (r : Run) (k : State → Run) : Run :=
  match r with
  | .ok s => k s
  | .err s f => .err s f

/-- The state a body leaves (R320). -/
def Run.settle : Run → State
  | .ok s => s
  | .err s f => s.raise f

/-- Run an instruction's body when its condition passes; a failed condition changes nothing (R165). -/
def whenPassed (c : Cond) (s : State) (body : State → Run) : Host.Outcome State Fault Refusal :=
  if condPassed c.code s.cpsr then .next (body s).settle else .next s

/-- Run the body of an instruction that carries no condition (R103). -/
def always (s : State) (body : State → Run) : Host.Outcome State Fault Refusal := .next (body s).settle

/-! ## The mode switch (`40_register_bank.md` R132 to R138) -/

/-- R8 to R14 of the active file. -/
def State.high (s : State) : Vector Word 7 :=
  #v[s.regs[8], s.regs[9], s.regs[10], s.regs[11], s.regs[12], s.regs[13], s.regs[14]]

/-- A register file with R8 to R14 replaced. -/
def withHigh (r : Vector Word 16) (h : Vector Word 7) : Vector Word 16 :=
  #v[r[0], r[1], r[2], r[3], r[4], r[5], r[6], r[7], h[0], h[1], h[2], h[3], h[4], h[5], h[6], r[15]]

/-- R13 and R14 of the active file. -/
def State.spLr (s : State) : Vector Word 2 := #v[s.regs[13], s.regs[14]]

/-- `bank_usr` with R8 to R12 of the active file in `[0..4]` and `[5..6]` kept: what a mode that banks R13 and R14 only leaves
there (R132). -/
def State.sharedBank (s : State) : Vector Word 7 :=
  #v[s.regs[8], s.regs[9], s.regs[10], s.regs[11], s.regs[12], s.bankUsr[5], s.bankUsr[6]]

/-- First half of `switchMode`: the outgoing mode's view goes to its storage (R132, R133). -/
def State.saveBank (s : State) : State :=
  match s.mode with
  | .usr | .sys => { s with bankUsr := s.high }
  | .fiq => { s with bankFiq := s.high, spsrFiq := s.spsr }
  | .irq => { s with bankUsr := s.sharedBank, bankIrq := s.spLr, spsrIrq := s.spsr }
  | .svc => { s with bankUsr := s.sharedBank, bankSvc := s.spLr, spsrSvc := s.spsr }
  | .abt => { s with bankUsr := s.sharedBank, bankAbt := s.spLr, spsrAbt := s.spsr }
  | .und => { s with bankUsr := s.sharedBank, bankUnd := s.spLr, spsrUnd := s.spsr }

/-- The shared R8 to R12 with the R13 and R14 of a two-register bank (R132). -/
def State.sharedWith (s : State) (b : Vector Word 2) : Vector Word 7 :=
  #v[s.bankUsr[0], s.bankUsr[1], s.bankUsr[2], s.bankUsr[3], s.bankUsr[4], b[0], b[1]]

/-- R8 to R14 as bank storage holds them for a mode (R132). -/
def State.storedHigh (s : State) (m : Mode) : Vector Word 7 :=
  match m with
  | .usr | .sys => s.bankUsr
  | .fiq => s.bankFiq
  | .irq => s.sharedWith s.bankIrq
  | .svc => s.sharedWith s.bankSvc
  | .abt => s.sharedWith s.bankAbt
  | .und => s.sharedWith s.bankUnd

/-- The SPSR slot of a mode; in User and System, which have none, the active SPSR, which such a mode keeps (R132, R137). -/
def State.storedSpsr (s : State) (m : Mode) : Word :=
  match m with
  | .usr | .sys => s.spsr
  | .fiq => s.spsrFiq
  | .irq => s.spsrIrq
  | .svc => s.spsrSvc
  | .abt => s.spsrAbt
  | .und => s.spsrUnd

/-- Second half of `switchMode`: the incoming mode's storage goes to the active file, and `mode` changes (R133, R137). -/
def State.loadBank (s : State) (m : Mode) : State :=
  { s with regs := withHigh s.regs (s.storedHigh m), spsr := s.storedSpsr m, mode := m }

/-- `switchMode(newMode)` (R133); a switch to the current mode changes nothing (R134). CPSR is neither read nor written
(R136, R138). -/
def State.switchMode (s : State) (m : Mode) : State :=
  if m = s.mode then s else s.saveBank.loadBank m

/-! ## Status registers (`40_register_bank.md` R139 to R141) -/

/-- `ValidMode` of a status-register value's mode field (R139). -/
def validMode (v : Word) : Bool := (modeOf (modeField v)).isSome

/-- `WriteCPSR(v)`: the mode is checked before anything is written (R140). -/
def State.writeCpsr (s : State) (v : Word) : Run :=
  match modeOf (modeField v) with
  | none => .err s (.invalidMode v)
  | some m => .ok (({ s with cpsr := v } : State).switchMode m)

/-- `CheckSPSR()`: SPSR may be accessed only in a mode that has one (R141). -/
def State.checkSpsr (s : State) : Run :=
  if s.mode.hasSpsr then .ok s else .err s (.spsrAccess s.mode)

/-- The two checks ahead of a CPSR restore: `CheckSPSR`, then the mode in SPSR (R212, R261). -/
def State.checkReturn (s : State) : Run :=
  s.checkSpsr.andThen fun s => if validMode s.spsr then .ok s else .err s (.invalidMode s.spsr)

/-- `ReturnWrite(r)`, the mode return of data processing: both checks, then `pc`, then CPSR from SPSR (R212). -/
def State.returnWrite (s : State) (r : Word) : Run :=
  s.checkReturn.andThen fun s => (s.setPc r).writeCpsr s.spsr

/-- CPSR with T written (`10_state.md` R30). -/
def State.setT (s : State) (t : Bool) : State := { s with cpsr := withT s.cpsr t }

end Sys2Proof.Machine
end

