-- ==== Sys2Proof/Machine/Operands.lean ====
section
/-! DEFINITION. Operand forms: rotation and sign extension (`42_shifter_alu.md` R181, R182), the shifter operand in its three
formats (R183 to R193, table R203), branch offsets (`30_encoding.md` R95, R96), block-transfer addresses
(`45_load_store_multiple.md` R255, R256) and the MSR field mask (`46_misc_status.md` R281). -/

namespace Sys2Proof.Machine

/-- `ROR32(v, n)`: rotation right by n mod 32 places (R181). -/
def ror32 (v : Word) (n : Nat) : Word :=
  let e := n % 32
  if e = 0 then v else (v >>> e) ||| (v <<< (32 - e))

/-- `sext_24` (R182). -/
def sext24 (v : BitVec 24) : Word := v.signExtend 32

/-- All ones when bit 31 is set, else zero: what an arithmetic shift by 32 or more leaves (R187, R192). -/
def signFill (v : Word) : Word := if v.getLsbD 31 then 0xFFFFFFFF else 0

/-- The rotated 8-bit immediate (`30_encoding.md` R93). -/
def rotatedImm (rot : BitVec 4) (imm8 : BitVec 8) : Word := ror32 (imm8.setWidth 32) (2 * rot.toNat)

/-- The immediate shifter operand: the carry passes when the rotate field is zero, else it is bit 31 (R184). -/
def shifterImm (rot : BitVec 4) (imm8 : BitVec 8) : ShifterOut :=
  let op2 := rotatedImm rot imm8
  { op2 := op2, sco := if rot = 0 then .pass else FlagUpd.ofBool (op2.getLsbD 31) }

/-- LSL by 1 to 31 places (R185). -/
def lslBy (v : Word) (n : Nat) : ShifterOut := ⟨v <<< n, FlagUpd.ofBool (v.getLsbD (32 - n))⟩
/-- LSR by 1 to 31 places (R186). -/
def lsrBy (v : Word) (n : Nat) : ShifterOut := ⟨v >>> n, FlagUpd.ofBool (v.getLsbD (n - 1))⟩
/-- ASR by 1 to 31 places (R187). -/
def asrBy (v : Word) (n : Nat) : ShifterOut := ⟨v.sshiftRight n, FlagUpd.ofBool (v.getLsbD (n - 1))⟩
/-- ROR by 1 to 31 places (R188). -/
def rorBy (v : Word) (n : Nat) : ShifterOut := ⟨ror32 v n, FlagUpd.ofBool (v.getLsbD (n - 1))⟩
/-- RRX, the 33-bit rotation through C (R188). -/
def rrx (v : Word) (c : Bool) : ShifterOut :=
  ⟨((BitVec.ofBool c).setWidth 32 <<< 31) ||| (v >>> 1), FlagUpd.ofBool (v.getLsbD 0)⟩

/-- Register operand, immediate amount 0 to 31 (R185 to R188). -/
def shiftByImm (ty : ShiftType) (v : Word) (n : Nat) (c : Bool) : ShifterOut :=
  match ty with
  | .lsl => if n = 0 then ⟨v, .pass⟩ else lslBy v n
  | .lsr => if n = 0 then ⟨0, FlagUpd.ofBool (v.getLsbD 31)⟩ else lsrBy v n
  | .asr => if n = 0 then ⟨signFill v, FlagUpd.ofBool (v.getLsbD 31)⟩ else asrBy v n
  | .ror => if n = 0 then rrx v c else rorBy v n

/-- Register operand, amount 0 to 255 from a register's low byte (R189 to R193). Amount 0 shifts nothing and passes the carry,
for every kind (R189). -/
def shiftByReg (ty : ShiftType) (v : Word) (n : Nat) : ShifterOut :=
  if n = 0 then ⟨v, .pass⟩
  else match ty with
  | .lsl => if n < 32 then lslBy v n else if n = 32 then ⟨0, FlagUpd.ofBool (v.getLsbD 0)⟩ else ⟨0, .unset⟩
  | .lsr => if n < 32 then lsrBy v n else if n = 32 then ⟨0, FlagUpd.ofBool (v.getLsbD 31)⟩ else ⟨0, .unset⟩
  | .asr => if n < 32 then asrBy v n else ⟨signFill v, FlagUpd.ofBool (v.getLsbD 31)⟩
  | .ror => if n % 32 = 0 then ⟨v, FlagUpd.ofBool (v.getLsbD 31)⟩ else rorBy v (n % 32)

/-- The three formats of a second operand (`30_encoding.md` R92). -/
inductive Operand2 where
  | imm (rot : BitVec 4) (imm8 : BitVec 8)
  | shImm (amt : BitVec 5) (ty : ShiftType) (rm : RegIdx)
  | shReg (rs : RegIdx) (ty : ShiftType) (rm : RegIdx)
deriving DecidableEq, Repr

/-- `ShifterOperand()`: it reads the registers named and C as it was before the instruction (R183, R199). -/
def shifterOperand (o : Operand2) (s : State) : ShifterOut :=
  match o with
  | .imm rot imm8 => shifterImm rot imm8
  | .shImm amt ty rm => shiftByImm ty (s.read rm) amt.toNat (flagC s.cpsr)
  | .shReg rs ty rm => shiftByReg ty (s.read rm) ((s.read rs).toNat % 256)

/-- The byte offset of B and BL (`30_encoding.md` R95). -/
def branchOffset (imm24 : BitVec 24) : Word := sext24 imm24 <<< 2

/-- The byte offset of BLX immediate, with its halfword bit (`30_encoding.md` R96). -/
def blxOffset (h : Bool) (imm24 : BitVec 24) : Word := branchOffset imm24 + (BitVec.ofBool h).setWidth 32 <<< 1

/-! ## Block transfers -/

/-- The register numbers of a list, ascending (R258). -/
def listedRegs (list : BitVec 16) : List RegIdx :=
  ((List.range 16).filter fun i => list.getLsbD i).map (BitVec.ofNat 4)

/-- `4 * cnt`: the size of the block in bytes (R255, R256). -/
def blockSize (list : BitVec 16) : Word := BitVec.ofNat 32 (4 * (listedRegs list).length)

/-- The address of the lowest-numbered register (R256). -/
def blockStart (p u : Bool) (base : Word) (list : BitVec 16) : Word :=
  match p, u with
  | false, true => base
  | true, true => base + 4
  | false, false => base - blockSize list + 4
  | true, false => base - blockSize list

/-- `wb`, the written-back base (R256). -/
def blockWb (u : Bool) (base : Word) (list : BitVec 16) : Word :=
  if u then base + blockSize list else base - blockSize list

/-! ## MSR -/

/-- The bits of a status register that a field mask selects: c 7:0, x 15:8, s 23:16, f 31:24 (R281; `30_encoding.md` R100). -/
def fieldMask (mask : BitVec 4) : Word :=
  (if mask.getLsbD 0 then 0x000000FF else 0) ||| (if mask.getLsbD 1 then 0x0000FF00 else 0) |||
  (if mask.getLsbD 2 then 0x00FF0000 else 0) ||| (if mask.getLsbD 3 then 0xFF000000 else 0)

/-- The field mask as a write of CPSR honours it in a mode: User cannot write the c byte (R285). -/
def cpsrMask (m : Mode) (mask : BitVec 4) : Word :=
  if m.privileged then fieldMask mask else fieldMask mask &&& 0xFFFFFF00

/-- The bits of `v` that `m` selects, over those of `old` (R281). -/
def mergeMask (old v m : Word) : Word := (old &&& ~~~m) ||| (v &&& m)

/-- Zero bits above the highest set bit among the low `n` bits. -/
def leadingZeros (v : Word) : Nat → Nat
  | 0 => 0
  | n + 1 => if v.getLsbD n then 0 else leadingZeros v n + 1

/-- CLZ: 32 for zero, else 31 less the index of the highest set bit (`46_misc_status.md` R284). -/
def countLeadingZeros (v : Word) : Nat := leadingZeros v 32

end Sys2Proof.Machine
end

