-- ==== Sys2Proof/Machine/BlockTransfer.lean ====
section
/-! DEFINITION. Load and store multiple in their six forms (`45_load_store_multiple.md`). -/

namespace Sys2Proof.Machine

/-- `LoadPC(v)`: bit 0 is cleared in `pc`, and sets T when it is 1; T is kept when it is 0 (R260). -/
def State.loadPc (s : State) (v : Word) : State :=
  if v.getLsbD 0 then (s.setPc (v &&& 0xFFFFFFFE)).setT true else s.setPc (v &&& 0xFFFFFFFE)

/-- One loaded register (R259, R260). -/
def State.loadReg (s : State) (i : RegIdx) (v : Word) : State := if i = pcIdx then s.loadPc v else s.write i v

/-- The loads of a block, ascending from address `a`, one word at a time; the first access out of range raises and leaves the
earlier loads done (R258, R259, R269). -/
def loadBlock : List RegIdx → Word → State → Run
  | [], _, s => .ok s
  | i :: rest, a, s =>
    match memRead s.mem a .word with
    | .error f => .err s f
    | .ok v => loadBlock rest (a + 4) (s.loadReg i v)

/-- The stores of a block; each register is read at the moment of its transfer, R15 as stored (R258, R263, R267 to R269). -/
def storeBlock : List RegIdx → Word → State → Run
  | [], _, s => .ok s
  | i :: rest, a, s =>
    match memWrite s.mem a .word (s.read i) with
    | .error f => .err s f
    | .ok m => storeBlock rest (a + 4) { s with mem := m }

/-- The base write-back, done before the first transfer in the mode the instruction started in (R257). -/
def State.writeBack (s : State) (u w : Bool) (rn : RegIdx) (list : BitVec 16) : State :=
  if w then s.write rn (blockWb u (s.read rn) list) else s

/-- A plain block load: base read, write-back, transfers (R259). -/
def runLoad (p u w : Bool) (rn : RegIdx) (list : BitVec 16) (s : State) : Run :=
  loadBlock (listedRegs list) (blockStart p u (s.read rn) list) (s.writeBack u w rn list)

/-- A plain block store (R263). -/
def runStore (p u w : Bool) (rn : RegIdx) (list : BitVec 16) (s : State) : Run :=
  storeBlock (listedRegs list) (blockStart p u (s.read rn) list) (s.writeBack u w rn list)

/-- Transfers with the User bank visible: the base and its write-back belong to the original mode; CPSR is not touched; an error
leaves the switch undone (R266, R269). -/
def State.asUser (s : State) (transfer : State → Run) : Run :=
  (transfer (s.switchMode .usr)).andThen fun t => .ok (t.switchMode s.mode)

/-- LDM (R259, R260). -/
def execLdm (c : Cond) (p u w : Bool) (rn : RegIdx) (list : BitVec 16) (s : State) : Host.Outcome State Fault Refusal :=
  whenPassed c s fun s => runLoad p u w rn list s

/-- LDM_USER (R262, R266). -/
def execLdmUser (c : Cond) (p u w : Bool) (rn : RegIdx) (list : BitVec 16) (s : State) : Host.Outcome State Fault Refusal :=
  whenPassed c s fun s =>
    (s.writeBack u w rn list).asUser (loadBlock (listedRegs list) (blockStart p u (s.read rn) list))

/-- LDM_RET (R261): both checks first, the loads in the starting mode's bank, then CPSR from SPSR. -/
def execLdmRet (c : Cond) (p u w : Bool) (rn : RegIdx) (list : BitVec 16) (s : State) : Host.Outcome State Fault Refusal :=
  whenPassed c s fun s =>
    s.checkReturn.andThen fun s => (runLoad p u w rn list s).andThen fun t => t.writeCpsr t.spsr

/-- STM (R263). -/
def execStm (c : Cond) (p u w : Bool) (rn : RegIdx) (list : BitVec 16) (s : State) : Host.Outcome State Fault Refusal :=
  whenPassed c s fun s => runStore p u w rn list s

/-- STM_USER (R264, R266). -/
def execStmUser (c : Cond) (p u w : Bool) (rn : RegIdx) (list : BitVec 16) (s : State) : Host.Outcome State Fault Refusal :=
  whenPassed c s fun s =>
    (s.writeBack u w rn list).asUser (storeBlock (listedRegs list) (blockStart p u (s.read rn) list))

/-- STM_S_PC: exactly as STM, in the current mode (R265). -/
def execStmSPc (c : Cond) (p u w : Bool) (rn : RegIdx) (list : BitVec 16) (s : State) : Host.Outcome State Fault Refusal :=
  whenPassed c s fun s => runStore p u w rn list s

end Sys2Proof.Machine
end

