-- ==== Sys2Proof/Machine/Branch.lean ====
section
/-! DEFINITION. The five branches (`44_branch.md`). While a branch fetched from A runs, `pc` holds PCx = A + 4, so the base of a
target and the link value are both PCx + 4 = A + 8 (R240). -/

namespace Sys2Proof.Machine

/-- The link value of every linking branch, PCx + 4 (R240). It is A + 8 for a call at A, so the calling convention of R247 follows: a
plain return of R14 to `pc` (`MOV PC, LR`, `BX LR`) resumes at A + 8 and the filler word at A + 4 is not executed; `SUB PC, LR, #4`
resumes at A + 4 (`dpWrite` writes `pc` without an offset, R211). `Obligations.CallFromAddress` states it. -/
def State.linkValue (s : State) : Word := s.pc + 4

/-- A branch by an offset from PCx + 4 (R241). -/
def State.branchBy (s : State) (off : Word) : State := s.setPc (s.pc + 4 + off)

/-- Branch and exchange to a register value: bit 0 is cleared in `pc` and selects the instruction state (R244); with R14 it is the
return from a call (R247). -/
def State.exchangeTo (s : State) (v : Word) : State := (s.setPc (v &&& 0xFFFFFFFE)).setT (v.getLsbD 0)

/-- B (R241). -/
def execB (c : Cond) (imm24 : BitVec 24) (s : State) : Host.Outcome State Fault Refusal :=
  whenPassed c s fun s => .ok (s.branchBy (branchOffset imm24))

/-- BL (R242): R14 of the current mode takes the link value. -/
def execBl (c : Cond) (imm24 : BitVec 24) (s : State) : Host.Outcome State Fault Refusal :=
  whenPassed c s fun s => .ok ((s.write lr s.linkValue).branchBy (branchOffset imm24))

/-- BLX, immediate form (R243): it always links and sets T. -/
def execBlxImm (h : Bool) (imm24 : BitVec 24) (s : State) : Host.Outcome State Fault Refusal :=
  always s fun s => .ok (((s.write lr s.linkValue).branchBy (blxOffset h imm24)).setT true)

/-- BX (R244). -/
def execBx (c : Cond) (rm : RegIdx) (s : State) : Host.Outcome State Fault Refusal :=
  whenPassed c s fun s => .ok (s.exchangeTo (s.read rm))

/-- BLX, register form (R245): Rm is read before R14 is written. -/
def execBlxReg (c : Cond) (rm : RegIdx) (s : State) : Host.Outcome State Fault Refusal :=
  whenPassed c s fun s => .ok ((s.write lr s.linkValue).exchangeTo (s.read rm))

end Sys2Proof.Machine
end

