-- ==== Sys2Proof/Machine/DataProcessing.lean ====
section
/-! DEFINITION. Data processing: the common procedure of `43_data_processing.md` R210 to R213 and the meanings of the sixteen
instructions in their three formats (R214 to R229). -/

namespace Sys2Proof.Machine

/-- The state with N, Z, C, V written from an ALU result (R197). -/
def State.setFlags (s : State) (o : AluOut) : State := { s with cpsr := setNZCV s.cpsr o.r o.cf o.vf }

/-- The write half of the common procedure for the twelve opcodes that write a register (R210): destination R15 with S = 1 is
the mode return (R212); destination R15 with S = 0 is a plain write of `pc` (R211), which
is how `MOV PC, LR` and `SUB PC, LR, #4` return from a call (R247). -/
def dpWrite (sf : Bool) (rd : RegIdx) (o : AluOut) (s : State) : Run :=
  if sf && rd == pcIdx then s.returnWrite o.r
  else .ok (if sf then (s.write rd o.r).setFlags o else s.write rd o.r)

/-- The write half for TST, TEQ, CMP and CMN: flags only, whatever the Rd field holds (R213). -/
def dpCompare (o : AluOut) (s : State) : Run := .ok (s.setFlags o)

/-- AND, format DP_IMM (R214). -/
def execAndImm (c : Cond) (sf : Bool) (rn rd : RegIdx) (rot : BitVec 4) (imm8 : BitVec 8) (s : State) : Host.Outcome State Fault Refusal :=
  whenPassed c s fun s => dpWrite sf rd (aluAnd (s.read rn) (shifterOperand (.imm rot imm8) s)) s

/-- AND, format DP_REG_IMMSHIFT (R214). -/
def execAndShImm (c : Cond) (sf : Bool) (rn rd : RegIdx) (amt : BitVec 5) (ty : ShiftType) (rm : RegIdx) (s : State) : Host.Outcome State Fault Refusal :=
  whenPassed c s fun s => dpWrite sf rd (aluAnd (s.read rn) (shifterOperand (.shImm amt ty rm) s)) s

/-- AND, format DP_REG_REGSHIFT (R214). -/
def execAndShReg (c : Cond) (sf : Bool) (rn rd : RegIdx) (rs : RegIdx) (ty : ShiftType) (rm : RegIdx) (s : State) : Host.Outcome State Fault Refusal :=
  whenPassed c s fun s => dpWrite sf rd (aluAnd (s.read rn) (shifterOperand (.shReg rs ty rm) s)) s

/-- EOR, format DP_IMM (R215). -/
def execEorImm (c : Cond) (sf : Bool) (rn rd : RegIdx) (rot : BitVec 4) (imm8 : BitVec 8) (s : State) : Host.Outcome State Fault Refusal :=
  whenPassed c s fun s => dpWrite sf rd (aluEor (s.read rn) (shifterOperand (.imm rot imm8) s)) s

/-- EOR, format DP_REG_IMMSHIFT (R215). -/
def execEorShImm (c : Cond) (sf : Bool) (rn rd : RegIdx) (amt : BitVec 5) (ty : ShiftType) (rm : RegIdx) (s : State) : Host.Outcome State Fault Refusal :=
  whenPassed c s fun s => dpWrite sf rd (aluEor (s.read rn) (shifterOperand (.shImm amt ty rm) s)) s

/-- EOR, format DP_REG_REGSHIFT (R215). -/
def execEorShReg (c : Cond) (sf : Bool) (rn rd : RegIdx) (rs : RegIdx) (ty : ShiftType) (rm : RegIdx) (s : State) : Host.Outcome State Fault Refusal :=
  whenPassed c s fun s => dpWrite sf rd (aluEor (s.read rn) (shifterOperand (.shReg rs ty rm) s)) s

/-- SUB, format DP_IMM (R216). -/
def execSubImm (c : Cond) (sf : Bool) (rn rd : RegIdx) (rot : BitVec 4) (imm8 : BitVec 8) (s : State) : Host.Outcome State Fault Refusal :=
  whenPassed c s fun s => dpWrite sf rd (aluSub (s.read rn) (shifterOperand (.imm rot imm8) s)) s

/-- SUB, format DP_REG_IMMSHIFT (R216). -/
def execSubShImm (c : Cond) (sf : Bool) (rn rd : RegIdx) (amt : BitVec 5) (ty : ShiftType) (rm : RegIdx) (s : State) : Host.Outcome State Fault Refusal :=
  whenPassed c s fun s => dpWrite sf rd (aluSub (s.read rn) (shifterOperand (.shImm amt ty rm) s)) s

/-- SUB, format DP_REG_REGSHIFT (R216). -/
def execSubShReg (c : Cond) (sf : Bool) (rn rd : RegIdx) (rs : RegIdx) (ty : ShiftType) (rm : RegIdx) (s : State) : Host.Outcome State Fault Refusal :=
  whenPassed c s fun s => dpWrite sf rd (aluSub (s.read rn) (shifterOperand (.shReg rs ty rm) s)) s

/-- RSB, format DP_IMM (R217). -/
def execRsbImm (c : Cond) (sf : Bool) (rn rd : RegIdx) (rot : BitVec 4) (imm8 : BitVec 8) (s : State) : Host.Outcome State Fault Refusal :=
  whenPassed c s fun s => dpWrite sf rd (aluRsb (s.read rn) (shifterOperand (.imm rot imm8) s)) s

/-- RSB, format DP_REG_IMMSHIFT (R217). -/
def execRsbShImm (c : Cond) (sf : Bool) (rn rd : RegIdx) (amt : BitVec 5) (ty : ShiftType) (rm : RegIdx) (s : State) : Host.Outcome State Fault Refusal :=
  whenPassed c s fun s => dpWrite sf rd (aluRsb (s.read rn) (shifterOperand (.shImm amt ty rm) s)) s

/-- RSB, format DP_REG_REGSHIFT (R217). -/
def execRsbShReg (c : Cond) (sf : Bool) (rn rd : RegIdx) (rs : RegIdx) (ty : ShiftType) (rm : RegIdx) (s : State) : Host.Outcome State Fault Refusal :=
  whenPassed c s fun s => dpWrite sf rd (aluRsb (s.read rn) (shifterOperand (.shReg rs ty rm) s)) s

/-- ADD, format DP_IMM (R218). -/
def execAddImm (c : Cond) (sf : Bool) (rn rd : RegIdx) (rot : BitVec 4) (imm8 : BitVec 8) (s : State) : Host.Outcome State Fault Refusal :=
  whenPassed c s fun s => dpWrite sf rd (aluAdd (s.read rn) (shifterOperand (.imm rot imm8) s)) s

/-- ADD, format DP_REG_IMMSHIFT (R218). -/
def execAddShImm (c : Cond) (sf : Bool) (rn rd : RegIdx) (amt : BitVec 5) (ty : ShiftType) (rm : RegIdx) (s : State) : Host.Outcome State Fault Refusal :=
  whenPassed c s fun s => dpWrite sf rd (aluAdd (s.read rn) (shifterOperand (.shImm amt ty rm) s)) s

/-- ADD, format DP_REG_REGSHIFT (R218). -/
def execAddShReg (c : Cond) (sf : Bool) (rn rd : RegIdx) (rs : RegIdx) (ty : ShiftType) (rm : RegIdx) (s : State) : Host.Outcome State Fault Refusal :=
  whenPassed c s fun s => dpWrite sf rd (aluAdd (s.read rn) (shifterOperand (.shReg rs ty rm) s)) s

/-- ADC, format DP_IMM (R219). -/
def execAdcImm (c : Cond) (sf : Bool) (rn rd : RegIdx) (rot : BitVec 4) (imm8 : BitVec 8) (s : State) : Host.Outcome State Fault Refusal :=
  whenPassed c s fun s => dpWrite sf rd (aluAdc (s.read rn) (shifterOperand (.imm rot imm8) s) (flagC s.cpsr)) s

/-- ADC, format DP_REG_IMMSHIFT (R219). -/
def execAdcShImm (c : Cond) (sf : Bool) (rn rd : RegIdx) (amt : BitVec 5) (ty : ShiftType) (rm : RegIdx) (s : State) : Host.Outcome State Fault Refusal :=
  whenPassed c s fun s => dpWrite sf rd (aluAdc (s.read rn) (shifterOperand (.shImm amt ty rm) s) (flagC s.cpsr)) s

/-- ADC, format DP_REG_REGSHIFT (R219). -/
def execAdcShReg (c : Cond) (sf : Bool) (rn rd : RegIdx) (rs : RegIdx) (ty : ShiftType) (rm : RegIdx) (s : State) : Host.Outcome State Fault Refusal :=
  whenPassed c s fun s => dpWrite sf rd (aluAdc (s.read rn) (shifterOperand (.shReg rs ty rm) s) (flagC s.cpsr)) s

/-- SBC, format DP_IMM (R220). -/
def execSbcImm (c : Cond) (sf : Bool) (rn rd : RegIdx) (rot : BitVec 4) (imm8 : BitVec 8) (s : State) : Host.Outcome State Fault Refusal :=
  whenPassed c s fun s => dpWrite sf rd (aluSbc (s.read rn) (shifterOperand (.imm rot imm8) s) (flagC s.cpsr)) s

/-- SBC, format DP_REG_IMMSHIFT (R220). -/
def execSbcShImm (c : Cond) (sf : Bool) (rn rd : RegIdx) (amt : BitVec 5) (ty : ShiftType) (rm : RegIdx) (s : State) : Host.Outcome State Fault Refusal :=
  whenPassed c s fun s => dpWrite sf rd (aluSbc (s.read rn) (shifterOperand (.shImm amt ty rm) s) (flagC s.cpsr)) s

/-- SBC, format DP_REG_REGSHIFT (R220). -/
def execSbcShReg (c : Cond) (sf : Bool) (rn rd : RegIdx) (rs : RegIdx) (ty : ShiftType) (rm : RegIdx) (s : State) : Host.Outcome State Fault Refusal :=
  whenPassed c s fun s => dpWrite sf rd (aluSbc (s.read rn) (shifterOperand (.shReg rs ty rm) s) (flagC s.cpsr)) s

/-- RSC, format DP_IMM (R221). -/
def execRscImm (c : Cond) (sf : Bool) (rn rd : RegIdx) (rot : BitVec 4) (imm8 : BitVec 8) (s : State) : Host.Outcome State Fault Refusal :=
  whenPassed c s fun s => dpWrite sf rd (aluRsc (s.read rn) (shifterOperand (.imm rot imm8) s) (flagC s.cpsr)) s

/-- RSC, format DP_REG_IMMSHIFT (R221). -/
def execRscShImm (c : Cond) (sf : Bool) (rn rd : RegIdx) (amt : BitVec 5) (ty : ShiftType) (rm : RegIdx) (s : State) : Host.Outcome State Fault Refusal :=
  whenPassed c s fun s => dpWrite sf rd (aluRsc (s.read rn) (shifterOperand (.shImm amt ty rm) s) (flagC s.cpsr)) s

/-- RSC, format DP_REG_REGSHIFT (R221). -/
def execRscShReg (c : Cond) (sf : Bool) (rn rd : RegIdx) (rs : RegIdx) (ty : ShiftType) (rm : RegIdx) (s : State) : Host.Outcome State Fault Refusal :=
  whenPassed c s fun s => dpWrite sf rd (aluRsc (s.read rn) (shifterOperand (.shReg rs ty rm) s) (flagC s.cpsr)) s

/-- TST, format DP_IMM (R222). -/
def execTstImm (c : Cond) (rn : RegIdx) (rot : BitVec 4) (imm8 : BitVec 8) (s : State) : Host.Outcome State Fault Refusal :=
  whenPassed c s fun s => dpCompare (aluTst (s.read rn) (shifterOperand (.imm rot imm8) s)) s

/-- TST, format DP_REG_IMMSHIFT (R222). -/
def execTstShImm (c : Cond) (rn : RegIdx) (amt : BitVec 5) (ty : ShiftType) (rm : RegIdx) (s : State) : Host.Outcome State Fault Refusal :=
  whenPassed c s fun s => dpCompare (aluTst (s.read rn) (shifterOperand (.shImm amt ty rm) s)) s

/-- TST, format DP_REG_REGSHIFT (R222). -/
def execTstShReg (c : Cond) (rn : RegIdx) (rs : RegIdx) (ty : ShiftType) (rm : RegIdx) (s : State) : Host.Outcome State Fault Refusal :=
  whenPassed c s fun s => dpCompare (aluTst (s.read rn) (shifterOperand (.shReg rs ty rm) s)) s

/-- TEQ, format DP_IMM (R223). -/
def execTeqImm (c : Cond) (rn : RegIdx) (rot : BitVec 4) (imm8 : BitVec 8) (s : State) : Host.Outcome State Fault Refusal :=
  whenPassed c s fun s => dpCompare (aluTeq (s.read rn) (shifterOperand (.imm rot imm8) s)) s

/-- TEQ, format DP_REG_IMMSHIFT (R223). -/
def execTeqShImm (c : Cond) (rn : RegIdx) (amt : BitVec 5) (ty : ShiftType) (rm : RegIdx) (s : State) : Host.Outcome State Fault Refusal :=
  whenPassed c s fun s => dpCompare (aluTeq (s.read rn) (shifterOperand (.shImm amt ty rm) s)) s

/-- TEQ, format DP_REG_REGSHIFT (R223). -/
def execTeqShReg (c : Cond) (rn : RegIdx) (rs : RegIdx) (ty : ShiftType) (rm : RegIdx) (s : State) : Host.Outcome State Fault Refusal :=
  whenPassed c s fun s => dpCompare (aluTeq (s.read rn) (shifterOperand (.shReg rs ty rm) s)) s

/-- CMP, format DP_IMM (R224). -/
def execCmpImm (c : Cond) (rn : RegIdx) (rot : BitVec 4) (imm8 : BitVec 8) (s : State) : Host.Outcome State Fault Refusal :=
  whenPassed c s fun s => dpCompare (aluCmp (s.read rn) (shifterOperand (.imm rot imm8) s)) s

/-- CMP, format DP_REG_IMMSHIFT (R224). -/
def execCmpShImm (c : Cond) (rn : RegIdx) (amt : BitVec 5) (ty : ShiftType) (rm : RegIdx) (s : State) : Host.Outcome State Fault Refusal :=
  whenPassed c s fun s => dpCompare (aluCmp (s.read rn) (shifterOperand (.shImm amt ty rm) s)) s

/-- CMP, format DP_REG_REGSHIFT (R224). -/
def execCmpShReg (c : Cond) (rn : RegIdx) (rs : RegIdx) (ty : ShiftType) (rm : RegIdx) (s : State) : Host.Outcome State Fault Refusal :=
  whenPassed c s fun s => dpCompare (aluCmp (s.read rn) (shifterOperand (.shReg rs ty rm) s)) s

/-- CMN, format DP_IMM (R225). -/
def execCmnImm (c : Cond) (rn : RegIdx) (rot : BitVec 4) (imm8 : BitVec 8) (s : State) : Host.Outcome State Fault Refusal :=
  whenPassed c s fun s => dpCompare (aluCmn (s.read rn) (shifterOperand (.imm rot imm8) s)) s

/-- CMN, format DP_REG_IMMSHIFT (R225). -/
def execCmnShImm (c : Cond) (rn : RegIdx) (amt : BitVec 5) (ty : ShiftType) (rm : RegIdx) (s : State) : Host.Outcome State Fault Refusal :=
  whenPassed c s fun s => dpCompare (aluCmn (s.read rn) (shifterOperand (.shImm amt ty rm) s)) s

/-- CMN, format DP_REG_REGSHIFT (R225). -/
def execCmnShReg (c : Cond) (rn : RegIdx) (rs : RegIdx) (ty : ShiftType) (rm : RegIdx) (s : State) : Host.Outcome State Fault Refusal :=
  whenPassed c s fun s => dpCompare (aluCmn (s.read rn) (shifterOperand (.shReg rs ty rm) s)) s

/-- ORR, format DP_IMM (R226). -/
def execOrrImm (c : Cond) (sf : Bool) (rn rd : RegIdx) (rot : BitVec 4) (imm8 : BitVec 8) (s : State) : Host.Outcome State Fault Refusal :=
  whenPassed c s fun s => dpWrite sf rd (aluOrr (s.read rn) (shifterOperand (.imm rot imm8) s)) s

/-- ORR, format DP_REG_IMMSHIFT (R226). -/
def execOrrShImm (c : Cond) (sf : Bool) (rn rd : RegIdx) (amt : BitVec 5) (ty : ShiftType) (rm : RegIdx) (s : State) : Host.Outcome State Fault Refusal :=
  whenPassed c s fun s => dpWrite sf rd (aluOrr (s.read rn) (shifterOperand (.shImm amt ty rm) s)) s

/-- ORR, format DP_REG_REGSHIFT (R226). -/
def execOrrShReg (c : Cond) (sf : Bool) (rn rd : RegIdx) (rs : RegIdx) (ty : ShiftType) (rm : RegIdx) (s : State) : Host.Outcome State Fault Refusal :=
  whenPassed c s fun s => dpWrite sf rd (aluOrr (s.read rn) (shifterOperand (.shReg rs ty rm) s)) s

/-- MOV, format DP_IMM (R227). -/
def execMovImm (c : Cond) (sf : Bool) (rd : RegIdx) (rot : BitVec 4) (imm8 : BitVec 8) (s : State) : Host.Outcome State Fault Refusal :=
  whenPassed c s fun s => dpWrite sf rd (aluMov (shifterOperand (.imm rot imm8) s)) s

/-- MOV, format DP_REG_IMMSHIFT (R227). -/
def execMovShImm (c : Cond) (sf : Bool) (rd : RegIdx) (amt : BitVec 5) (ty : ShiftType) (rm : RegIdx) (s : State) : Host.Outcome State Fault Refusal :=
  whenPassed c s fun s => dpWrite sf rd (aluMov (shifterOperand (.shImm amt ty rm) s)) s

/-- MOV, format DP_REG_REGSHIFT (R227). -/
def execMovShReg (c : Cond) (sf : Bool) (rd : RegIdx) (rs : RegIdx) (ty : ShiftType) (rm : RegIdx) (s : State) : Host.Outcome State Fault Refusal :=
  whenPassed c s fun s => dpWrite sf rd (aluMov (shifterOperand (.shReg rs ty rm) s)) s

/-- BIC, format DP_IMM (R228). -/
def execBicImm (c : Cond) (sf : Bool) (rn rd : RegIdx) (rot : BitVec 4) (imm8 : BitVec 8) (s : State) : Host.Outcome State Fault Refusal :=
  whenPassed c s fun s => dpWrite sf rd (aluBic (s.read rn) (shifterOperand (.imm rot imm8) s)) s

/-- BIC, format DP_REG_IMMSHIFT (R228). -/
def execBicShImm (c : Cond) (sf : Bool) (rn rd : RegIdx) (amt : BitVec 5) (ty : ShiftType) (rm : RegIdx) (s : State) : Host.Outcome State Fault Refusal :=
  whenPassed c s fun s => dpWrite sf rd (aluBic (s.read rn) (shifterOperand (.shImm amt ty rm) s)) s

/-- BIC, format DP_REG_REGSHIFT (R228). -/
def execBicShReg (c : Cond) (sf : Bool) (rn rd : RegIdx) (rs : RegIdx) (ty : ShiftType) (rm : RegIdx) (s : State) : Host.Outcome State Fault Refusal :=
  whenPassed c s fun s => dpWrite sf rd (aluBic (s.read rn) (shifterOperand (.shReg rs ty rm) s)) s

/-- MVN, format DP_IMM (R229). -/
def execMvnImm (c : Cond) (sf : Bool) (rd : RegIdx) (rot : BitVec 4) (imm8 : BitVec 8) (s : State) : Host.Outcome State Fault Refusal :=
  whenPassed c s fun s => dpWrite sf rd (aluMvn (shifterOperand (.imm rot imm8) s)) s

/-- MVN, format DP_REG_IMMSHIFT (R229). -/
def execMvnShImm (c : Cond) (sf : Bool) (rd : RegIdx) (amt : BitVec 5) (ty : ShiftType) (rm : RegIdx) (s : State) : Host.Outcome State Fault Refusal :=
  whenPassed c s fun s => dpWrite sf rd (aluMvn (shifterOperand (.shImm amt ty rm) s)) s

/-- MVN, format DP_REG_REGSHIFT (R229). -/
def execMvnShReg (c : Cond) (sf : Bool) (rd : RegIdx) (rs : RegIdx) (ty : ShiftType) (rm : RegIdx) (s : State) : Host.Outcome State Fault Refusal :=
  whenPassed c s fun s => dpWrite sf rd (aluMvn (shifterOperand (.shReg rs ty rm) s)) s

end Sys2Proof.Machine
end

