-- ==== Sys2Proof/Machine/Status.lean ====
section
/-! DEFINITION. MRS, MSR and CLZ (`46_misc_status.md`). -/

namespace Sys2Proof.Machine

/-- MRS: all 32 bits of CPSR, or of SPSR in a mode that has one (R280). -/
def runMrs (psr : Psr) (rd : RegIdx) (s : State) : Run :=
  match psr with
  | .cpsr => .ok (s.write rd s.cpsr)
  | .spsr => s.checkSpsr.andThen fun s => .ok (s.write rd s.spsr)

/-- MSR, common part (R281, R285): SPSR stores the selected bits; CPSR goes through `WriteCPSR`. -/
def runMsr (psr : Psr) (mask : BitVec 4) (v : Word) (s : State) : Run :=
  match psr with
  | .cpsr => s.writeCpsr (mergeMask s.cpsr v (cpsrMask s.mode mask))
  | .spsr => s.checkSpsr.andThen fun s => .ok { s with spsr := mergeMask s.spsr v (fieldMask mask) }

/-- MRS (R280). -/
def execMrs (c : Cond) (psr : Psr) (rd : RegIdx) (s : State) : Host.Outcome State Fault Refusal :=
  whenPassed c s fun s => runMrs psr rd s

/-- MSR, register operand (R283). -/
def execMsrReg (c : Cond) (psr : Psr) (mask : BitVec 4) (rm : RegIdx) (s : State) : Host.Outcome State Fault Refusal :=
  whenPassed c s fun s => runMsr psr mask (s.read rm) s

/-- MSR, immediate operand; the rotation gives no carry (R282). -/
def execMsrImm (c : Cond) (psr : Psr) (mask rot : BitVec 4) (imm8 : BitVec 8) (s : State) :
    Host.Outcome State Fault Refusal :=
  whenPassed c s fun s => runMsr psr mask (rotatedImm rot imm8) s

/-- CLZ (R284). -/
def execClz (c : Cond) (rd rm : RegIdx) (s : State) : Host.Outcome State Fault Refusal :=
  whenPassed c s fun s => .ok (s.write rd (BitVec.ofNat 32 (countLeadingZeros (s.read rm))))

end Sys2Proof.Machine
end

