-- ==== Sys2Proof/Machine/Stub.lean ====
section
/-! DEFINITION. The classes that are decoded and whose whole effect is the fatal error `Unimplemented(class)`
(`47_unimplemented_classes.md` R295 to R310). The spec gives each that effect, so each runs: its next state is the halted state
with the error recorded (log 1). -/

namespace Sys2Proof.Machine

/-- `Stub(class)`: raise `Unimplemented(class)` and nothing else (R295). -/
def stub (cls : StubClass) (s : State) : Run := .err s (.unimplemented cls)

/-- QADD (R301). -/
def execQadd (c : Cond) (s : State) : Host.Outcome State Fault Refusal :=
  whenPassed c s fun s => stub .saturatingArithmetic s

/-- QSUB (R301). -/
def execQsub (c : Cond) (s : State) : Host.Outcome State Fault Refusal :=
  whenPassed c s fun s => stub .saturatingArithmetic s

/-- QDADD (R301). -/
def execQdadd (c : Cond) (s : State) : Host.Outcome State Fault Refusal :=
  whenPassed c s fun s => stub .saturatingArithmetic s

/-- QDSUB (R301). -/
def execQdsub (c : Cond) (s : State) : Host.Outcome State Fault Refusal :=
  whenPassed c s fun s => stub .saturatingArithmetic s

/-- SMUL_CLASS (R302). -/
def execSmulClass (c : Cond) (s : State) : Host.Outcome State Fault Refusal :=
  whenPassed c s fun s => stub .signedMultiply s

/-- MUL_CLASS (R300). -/
def execMulClass (c : Cond) (s : State) : Host.Outcome State Fault Refusal :=
  whenPassed c s fun s => stub .multiply s

/-- XLS_CLASS_H (R303). -/
def execXlsClassH (c : Cond) (s : State) : Host.Outcome State Fault Refusal :=
  whenPassed c s fun s => stub .extraLoadStore s

/-- XLS_CLASS_SB (R303). -/
def execXlsClassSb (c : Cond) (s : State) : Host.Outcome State Fault Refusal :=
  whenPassed c s fun s => stub .extraLoadStore s

/-- XLS_CLASS_SH (R303). -/
def execXlsClassSh (c : Cond) (s : State) : Host.Outcome State Fault Refusal :=
  whenPassed c s fun s => stub .extraLoadStore s

/-- LS_IMM_CLASS (R304). -/
def execLsImmClass (c : Cond) (s : State) : Host.Outcome State Fault Refusal :=
  whenPassed c s fun s => stub .loadStore s

/-- LS_REG_CLASS (R304). -/
def execLsRegClass (c : Cond) (s : State) : Host.Outcome State Fault Refusal :=
  whenPassed c s fun s => stub .loadStore s

/-- MEDIA_CLASS (R305). -/
def execMediaClass (c : Cond) (s : State) : Host.Outcome State Fault Refusal :=
  whenPassed c s fun s => stub .media s

/-- CP_LS_CLASS (R306). -/
def execCpLsClass (c : Cond) (s : State) : Host.Outcome State Fault Refusal :=
  whenPassed c s fun s => stub .coprocessor s

/-- CP_OP_CLASS (R307). -/
def execCpOpClass (c : Cond) (s : State) : Host.Outcome State Fault Refusal :=
  whenPassed c s fun s => stub .coprocessor s

/-- SWI (R308). -/
def execSwi (c : Cond) (s : State) : Host.Outcome State Fault Refusal :=
  whenPassed c s fun s => stub .softwareInterrupt s

end Sys2Proof.Machine
end

