-- ==== Sys2Proof/Machine/Dispatch.lean ====
section
/-! DEFINITION. What each instruction does, one arm for each constructor, in the order of `spec/opcode_table.json`. -/

namespace Sys2Proof.Machine

def exec (i : Instr) (s : State) : Host.Outcome State Fault Refusal :=
  match i with
  | .andImm c sf rn rd rot imm8 => Sys2Proof.Machine.execAndImm c sf rn rd rot imm8 s
  | .andShImm c sf rn rd amt ty rm => Sys2Proof.Machine.execAndShImm c sf rn rd amt ty rm s
  | .andShReg c sf rn rd rs ty rm => Sys2Proof.Machine.execAndShReg c sf rn rd rs ty rm s
  | .eorImm c sf rn rd rot imm8 => Sys2Proof.Machine.execEorImm c sf rn rd rot imm8 s
  | .eorShImm c sf rn rd amt ty rm => Sys2Proof.Machine.execEorShImm c sf rn rd amt ty rm s
  | .eorShReg c sf rn rd rs ty rm => Sys2Proof.Machine.execEorShReg c sf rn rd rs ty rm s
  | .subImm c sf rn rd rot imm8 => Sys2Proof.Machine.execSubImm c sf rn rd rot imm8 s
  | .subShImm c sf rn rd amt ty rm => Sys2Proof.Machine.execSubShImm c sf rn rd amt ty rm s
  | .subShReg c sf rn rd rs ty rm => Sys2Proof.Machine.execSubShReg c sf rn rd rs ty rm s
  | .rsbImm c sf rn rd rot imm8 => Sys2Proof.Machine.execRsbImm c sf rn rd rot imm8 s
  | .rsbShImm c sf rn rd amt ty rm => Sys2Proof.Machine.execRsbShImm c sf rn rd amt ty rm s
  | .rsbShReg c sf rn rd rs ty rm => Sys2Proof.Machine.execRsbShReg c sf rn rd rs ty rm s
  | .addImm c sf rn rd rot imm8 => Sys2Proof.Machine.execAddImm c sf rn rd rot imm8 s
  | .addShImm c sf rn rd amt ty rm => Sys2Proof.Machine.execAddShImm c sf rn rd amt ty rm s
  | .addShReg c sf rn rd rs ty rm => Sys2Proof.Machine.execAddShReg c sf rn rd rs ty rm s
  | .adcImm c sf rn rd rot imm8 => Sys2Proof.Machine.execAdcImm c sf rn rd rot imm8 s
  | .adcShImm c sf rn rd amt ty rm => Sys2Proof.Machine.execAdcShImm c sf rn rd amt ty rm s
  | .adcShReg c sf rn rd rs ty rm => Sys2Proof.Machine.execAdcShReg c sf rn rd rs ty rm s
  | .sbcImm c sf rn rd rot imm8 => Sys2Proof.Machine.execSbcImm c sf rn rd rot imm8 s
  | .sbcShImm c sf rn rd amt ty rm => Sys2Proof.Machine.execSbcShImm c sf rn rd amt ty rm s
  | .sbcShReg c sf rn rd rs ty rm => Sys2Proof.Machine.execSbcShReg c sf rn rd rs ty rm s
  | .rscImm c sf rn rd rot imm8 => Sys2Proof.Machine.execRscImm c sf rn rd rot imm8 s
  | .rscShImm c sf rn rd amt ty rm => Sys2Proof.Machine.execRscShImm c sf rn rd amt ty rm s
  | .rscShReg c sf rn rd rs ty rm => Sys2Proof.Machine.execRscShReg c sf rn rd rs ty rm s
  | .tstImm c rn rot imm8 => Sys2Proof.Machine.execTstImm c rn rot imm8 s
  | .tstShImm c rn amt ty rm => Sys2Proof.Machine.execTstShImm c rn amt ty rm s
  | .tstShReg c rn rs ty rm => Sys2Proof.Machine.execTstShReg c rn rs ty rm s
  | .teqImm c rn rot imm8 => Sys2Proof.Machine.execTeqImm c rn rot imm8 s
  | .teqShImm c rn amt ty rm => Sys2Proof.Machine.execTeqShImm c rn amt ty rm s
  | .teqShReg c rn rs ty rm => Sys2Proof.Machine.execTeqShReg c rn rs ty rm s
  | .cmpImm c rn rot imm8 => Sys2Proof.Machine.execCmpImm c rn rot imm8 s
  | .cmpShImm c rn amt ty rm => Sys2Proof.Machine.execCmpShImm c rn amt ty rm s
  | .cmpShReg c rn rs ty rm => Sys2Proof.Machine.execCmpShReg c rn rs ty rm s
  | .cmnImm c rn rot imm8 => Sys2Proof.Machine.execCmnImm c rn rot imm8 s
  | .cmnShImm c rn amt ty rm => Sys2Proof.Machine.execCmnShImm c rn amt ty rm s
  | .cmnShReg c rn rs ty rm => Sys2Proof.Machine.execCmnShReg c rn rs ty rm s
  | .orrImm c sf rn rd rot imm8 => Sys2Proof.Machine.execOrrImm c sf rn rd rot imm8 s
  | .orrShImm c sf rn rd amt ty rm => Sys2Proof.Machine.execOrrShImm c sf rn rd amt ty rm s
  | .orrShReg c sf rn rd rs ty rm => Sys2Proof.Machine.execOrrShReg c sf rn rd rs ty rm s
  | .movImm c sf rd rot imm8 => Sys2Proof.Machine.execMovImm c sf rd rot imm8 s
  | .movShImm c sf rd amt ty rm => Sys2Proof.Machine.execMovShImm c sf rd amt ty rm s
  | .movShReg c sf rd rs ty rm => Sys2Proof.Machine.execMovShReg c sf rd rs ty rm s
  | .bicImm c sf rn rd rot imm8 => Sys2Proof.Machine.execBicImm c sf rn rd rot imm8 s
  | .bicShImm c sf rn rd amt ty rm => Sys2Proof.Machine.execBicShImm c sf rn rd amt ty rm s
  | .bicShReg c sf rn rd rs ty rm => Sys2Proof.Machine.execBicShReg c sf rn rd rs ty rm s
  | .mvnImm c sf rd rot imm8 => Sys2Proof.Machine.execMvnImm c sf rd rot imm8 s
  | .mvnShImm c sf rd amt ty rm => Sys2Proof.Machine.execMvnShImm c sf rd amt ty rm s
  | .mvnShReg c sf rd rs ty rm => Sys2Proof.Machine.execMvnShReg c sf rd rs ty rm s
  | .mrs c psr rd => Sys2Proof.Machine.execMrs c psr rd s
  | .msrReg c psr mask rm => Sys2Proof.Machine.execMsrReg c psr mask rm s
  | .msrImm c psr mask rot imm8 => Sys2Proof.Machine.execMsrImm c psr mask rot imm8 s
  | .bx c rm => Sys2Proof.Machine.execBx c rm s
  | .blxReg c rm => Sys2Proof.Machine.execBlxReg c rm s
  | .clz c rd rm => Sys2Proof.Machine.execClz c rd rm s
  | .qadd c => Sys2Proof.Machine.execQadd c s
  | .qsub c => Sys2Proof.Machine.execQsub c s
  | .qdadd c => Sys2Proof.Machine.execQdadd c s
  | .qdsub c => Sys2Proof.Machine.execQdsub c s
  | .smulClass c => Sys2Proof.Machine.execSmulClass c s
  | .mulClass c => Sys2Proof.Machine.execMulClass c s
  | .xlsClassH c => Sys2Proof.Machine.execXlsClassH c s
  | .xlsClassSb c => Sys2Proof.Machine.execXlsClassSb c s
  | .xlsClassSh c => Sys2Proof.Machine.execXlsClassSh c s
  | .lsImmClass c => Sys2Proof.Machine.execLsImmClass c s
  | .lsRegClass c => Sys2Proof.Machine.execLsRegClass c s
  | .mediaClass c => Sys2Proof.Machine.execMediaClass c s
  | .ldm c p u w rn list => Sys2Proof.Machine.execLdm c p u w rn list s
  | .ldmUser c p u w rn list => Sys2Proof.Machine.execLdmUser c p u w rn list s
  | .ldmRet c p u w rn list => Sys2Proof.Machine.execLdmRet c p u w rn list s
  | .stm c p u w rn list => Sys2Proof.Machine.execStm c p u w rn list s
  | .stmUser c p u w rn list => Sys2Proof.Machine.execStmUser c p u w rn list s
  | .stmSPc c p u w rn list => Sys2Proof.Machine.execStmSPc c p u w rn list s
  | .b c imm24 => Sys2Proof.Machine.execB c imm24 s
  | .bl c imm24 => Sys2Proof.Machine.execBl c imm24 s
  | .cpLsClass c => Sys2Proof.Machine.execCpLsClass c s
  | .cpOpClass c => Sys2Proof.Machine.execCpOpClass c s
  | .swi c => Sys2Proof.Machine.execSwi c s
  | .blxImm h imm24 => Sys2Proof.Machine.execBlxImm h imm24 s

end Sys2Proof.Machine
end

