-- ==== Sys2Proof/Machine/Fetch.lean ====
section
/-! DEFINITION. The phases of a step (`41_condition_and_step.md` R160 to R169): the fetch in either instruction state, decode
and execute, and the placing of an instruction's bytes where the fetch reads them. -/

namespace Sys2Proof.Machine

/-- The state as the executor of a fetched word sees it: `IR` written and `pc` advanced by the fetch width (R161 to R163). -/
def State.afterFetch (s : State) (w : Word) (width : Width) : State :=
  ({ s with ir := w } : State).setPc (s.pc + BitVec.ofNat 32 width.bytes)

/-- DECODE and EXECUTE: the condition is tested before any other bit of the word; a word that selects no row raises
`DecodeFailure` (R164, R165, R322). -/
def decodeAndExecute (w : Word) (s : State) : Host.Outcome State Fault Refusal :=
  if condPassed (condF w) s.cpsr then
    match decodeWord w with
    | .ok i => exec i s
    | .error _ => .next (s.raise (.decodeFailure w))
  else .next s

/-- A step in ARM state: fetch a word, advance `pc` by 4, decode and execute; a fetch out of range raises with `pc` and `IR` as
they were (R160 to R162, R324). -/
def stepArm (s : State) : Host.Outcome State Fault Refusal :=
  match memRead s.mem s.pc .word with
  | .error f => .next (s.raise f)
  | .ok w => decodeAndExecute w (s.afterFetch w .word)

/-- A step in Thumb state: fetch a halfword, advance `pc` by 2, raise `Unimplemented(Thumb)` (R163, R309). -/
def stepThumb (s : State) : Host.Outcome State Fault Refusal :=
  match memRead s.mem s.pc .half with
  | .error f => .next (s.raise f)
  | .ok w => .next ((s.afterFetch w .half).raise (.unimplemented .thumb))

/-- One transition of the control state machine: nothing when halted, else by CPSR.T (R160, R167, R170). -/
def stepCore (s : State) : Host.Outcome State Fault Refusal :=
  if s.halted then .next s
  else if flagT s.cpsr then stepThumb s
  else stepArm s

/-- Memory with a word stored at `pc`, where an ARM-state fetch reads it (R161). Where the word does not fit
inside the device nothing is stored: the fetch there raises `AddressError`. -/
def State.placeWord (s : State) (w : Word) : State :=
  match memWrite s.mem s.pc .word w with
  | .ok m => { s with mem := m }
  | .error _ => s

end Sys2Proof.Machine
end

