-- ==== Sys2Proof/Machine/Step.lean ====
section
/-! DEFINITION. The step function, and the placing of an instruction that the next step runs. -/

namespace Sys2Proof.Machine

/-- `step()`: one fetch, one decode, at most one execution (R160, R168). -/
def step (s : State) : Host.Outcome State Fault Refusal := stepCore s

/-- The state with an instruction's word, `w` taken modulo 2^`nbits`, stored where `step` fetches next: at `pc`. It stands for
the driver's loading of a program (R354, R358; log 4). The next step runs it when the core is not halted, is in ARM state and
`pc` lies inside memory, as after reset. -/
def State.withFetchWord (s : State) (nbits w : Nat) : State := s.placeWord (BitVec.ofNat 32 (w % 2 ^ nbits))

end Sys2Proof.Machine
end

