-- ==== Sys2Proof/Machine/Driver.lean ====
section
/-! DEFINITION. The driver's side of the core (`70_reset_and_hazards.md` R350 to R358): construction, `reset()`, `dispose()` and
the accesses a driver may make between steps. None of it happens inside a step. -/

namespace Sys2Proof.Machine

/-- `reset()`: every element of core state to its reset value, halt and error cleared, memory untouched (R350, R353). -/
def State.driverReset (c : Config) (s : State) : State := State.resetCore c s.mem

/-- The life of a core as its driver sees it (R355, R356). -/
inductive Session where
  /-- A constructed core with the parameters it was constructed with (R40). -/
  | live (c : Config) (s : State)
  /-- After `dispose()`. -/
  | disposed
deriving DecidableEq, Repr

/-- The twenty-two slots of bank storage, `bank_usr[0..6]` to `bank_und[0..1]` (`10_state.md` R25). -/
inductive BankSlot where
  | usr (k : Fin 7)
  | fiq (k : Fin 7)
  | irq (k : Fin 2)
  | svc (k : Fin 2)
  | abt (k : Fin 2)
  | und (k : Fin 2)
deriving DecidableEq, Repr

/-- The five SPSR slots; User and System have none (`10_state.md` R25, R34). -/
inductive SpsrSlot where
  | fiq
  | irq
  | svc
  | abt
  | und
deriving DecidableEq, Repr

/-- What a driver may call between steps (R356, R358; D37: it may write any state). Reading needs no call: all of the state may be
read. The pieces of state without a write of their own are those that a rule gives one writer: `mode` is written by `switchMode`
only (R35) and so through `writeCpsr`; `halted` and `err` are set by a fatal error and cleared only by `reset` (R38, R167);
`MEM_SIZE` is fixed at construction (R40). DEDUCED, log 14. -/
inductive DriverCall where
  | step
  | reset
  /-- Memory, within the bounds of `MemWrite`. -/
  | writeMem (addr : Word) (n : Width) (v : Word)
  /-- R0 to R15 of the active file, `pc` as R15 among them. -/
  | writeReg (i : RegIdx) (v : Word)
  /-- CPSR, through `WriteCPSR`. -/
  | writeCpsr (v : Word)
  /-- The active SPSR, in any mode: in User and System it is the scratch copy (R33). -/
  | writeSpsr (v : Word)
  /-- One SPSR slot. -/
  | writeSpsrSlot (slot : SpsrSlot) (v : Word)
  /-- One slot of bank storage. -/
  | writeBank (slot : BankSlot) (v : Word)
  /-- The instruction register. -/
  | writeIr (v : Word)
  | dispose
deriving DecidableEq, Repr

/-- Construction: memory all zero, then the reset state (R351); parameters outside R7 are refused (U2, U3). -/
def construct (c : Config) : Host.Outcome Session Fault Refusal :=
  if c.valid then .next (.live c (State.constructed c)) else .refused .badConfig

/-- A step's outcome inside a session. -/
def inSession (c : Config) : Host.Outcome State Fault Refusal → Host.Outcome Session Fault Refusal
  | .next s => .next (.live c s)
  | .fault f => .fault f
  | .refused r => .refused r

/-- A driver's memory write has the bounds of `MemWrite`; out of range it answers the error to the driver and changes nothing,
since no step is in progress that it could end (R358; log 8). -/
def State.driverWriteMem (s : State) (a : Word) (n : Width) (v : Word) : Host.Outcome State Fault Refusal :=
  match memWrite s.mem a n v with
  | .ok m => .next { s with mem := m }
  | .error f => .fault f

/-- A driver's memory read, the `readByte`, `readHalfWord` and `readWord` of R62. -/
def State.driverReadMem (s : State) (a : Word) (n : Width) : Except Fault Word := memRead s.mem a n

/-- A driver's read of a slot of bank storage (R358). -/
def State.bankSlot (s : State) : BankSlot → Word
  | .usr k => s.bankUsr[k.val]
  | .fiq k => s.bankFiq[k.val]
  | .irq k => s.bankIrq[k.val]
  | .svc k => s.bankSvc[k.val]
  | .abt k => s.bankAbt[k.val]
  | .und k => s.bankUnd[k.val]

/-- A driver's write of a slot of bank storage (R358, D37). It is the storage that is written: the active file and every other slot
keep their values, those of the current mode too, whose slots are stale until a switch saves over them (R135). -/
def State.writeBankSlot (s : State) (slot : BankSlot) (v : Word) : State :=
  match slot with
  | .usr k => { s with bankUsr := s.bankUsr.set k.val v }
  | .fiq k => { s with bankFiq := s.bankFiq.set k.val v }
  | .irq k => { s with bankIrq := s.bankIrq.set k.val v }
  | .svc k => { s with bankSvc := s.bankSvc.set k.val v }
  | .abt k => { s with bankAbt := s.bankAbt.set k.val v }
  | .und k => { s with bankUnd := s.bankUnd.set k.val v }

/-- A driver's read of an SPSR slot (R358). -/
def State.spsrSlot (s : State) : SpsrSlot → Word
  | .fiq => s.spsrFiq
  | .irq => s.spsrIrq
  | .svc => s.spsrSvc
  | .abt => s.spsrAbt
  | .und => s.spsrUnd

/-- A driver's write of an SPSR slot (R358, D37); the active SPSR and every other slot keep their values. -/
def State.writeSpsrSlot (s : State) (slot : SpsrSlot) (v : Word) : State :=
  match slot with
  | .fiq => { s with spsrFiq := v }
  | .irq => { s with spsrIrq := v }
  | .svc => { s with spsrSvc := v }
  | .abt => { s with spsrAbt := v }
  | .und => { s with spsrUnd := v }

/-- A driver's write of the active SPSR. The access check of R141 is on instructions; vector S4 writes SPSR in User mode. -/
def State.driverWriteSpsr (s : State) (v : Word) : State := { s with spsr := v }

/-- A driver's write of the instruction register (D37), which no later step reads: every fetch writes it first (R38). -/
def State.driverWriteIr (s : State) (v : Word) : State := { s with ir := v }

/-- A driver's write of CPSR goes through `WriteCPSR` (R358). DESIGN CHOICE (log 15): with a value that names no mode, `WriteCPSR`
raises `InvalidMode(v)` here too, though no step is in progress: `halted` is set, `err` is written, nothing else changes. So it is
on a core that is already halted, the case R333 leaves open (it says only that no fatal error can occur there "because a halted core
executes nothing", and a driver's write executes nothing): the core stays halted and the new `InvalidMode(v)` replaces the error that
`err` held. -/
def State.driverWriteCpsr (s : State) (v : Word) : State := (s.writeCpsr v).settle

/-- One call of the driver (R356 to R358): a write is one whole change between two steps. Nothing may follow `dispose()` (R355, U25).
What an invalid CPSR write does, to a halted core too, is the model's choice: `State.driverWriteCpsr`, log 15. -/
def driverCall (call : DriverCall) (d : Session) : Host.Outcome Session Fault Refusal :=
  match d with
  | .disposed => .refused .afterDispose
  | .live c s =>
    match call with
    | .step => inSession c (step s)
    | .reset => .next (.live c (s.driverReset c))
    | .writeMem a n v => inSession c (s.driverWriteMem a n v)
    | .writeReg i v => .next (.live c (s.write i v))
    | .writeCpsr v => .next (.live c (s.driverWriteCpsr v))
    | .writeSpsr v => .next (.live c (s.driverWriteSpsr v))
    | .writeSpsrSlot slot v => .next (.live c (s.writeSpsrSlot slot v))
    | .writeBank slot v => .next (.live c (s.writeBankSlot slot v))
    | .writeIr v => .next (.live c (s.driverWriteIr v))
    | .dispose => .next .disposed

end Sys2Proof.Machine
end

