-- ==== Sys2Proof/Safety.lean ====
section
/-! DEFINITION. What counts as a safe run, and the terms claims are stated in: the invariant of the core, the logical view of
the register bank (`10_state.md` R37), the instructions of one shape gathered by operand form, and the addresses of a block
transfer. -/

namespace Sys2Proof.Machine

/-! ## Safe states -/

/-- `mode` agrees with CPSR.M (`10_state.md` R36). -/
def State.ModeAgrees (s : State) : Prop := modeOf (modeField s.cpsr) = some s.mode

/-- What holds of every state between steps: memory is canonical; `mode` agrees with CPSR.M unless a fatal error left the core
halted (R36, R269); `err` records an error exactly when the core is halted (R38). -/
structure State.Inv (s : State) : Prop where
  memWf : s.mem.wf = true
  modeAgrees : s.halted = false → s.ModeAgrees
  errHalted : s.err.isSome = s.halted

/-- A core that is running in ARM state: not halted, T = 0 (`41_condition_and_step.md` R170, RUN_ARM). -/
def State.RunArm (s : State) : Prop := s.halted = false ∧ flagT s.cpsr = false

/-- A step is safe when it answers a next state that is not halted. -/
def StepSafe (s : State) : Prop := ∃ t, step s = .next t ∧ t.halted = false

/-- A running core in ARM state whose next instruction word lies inside the device (R161, R66). -/
def State.Fetchable (s : State) : Prop := s.RunArm ∧ s.pc.toNat + 4 ≤ s.mem.size

/-- The state an ARM-state fetch of `w` hands to the executor: `IR` = `w`, `pc` = A + 4 (R161, R162). -/
def State.fetched (s : State) (w : Word) : State := { s with ir := w, regs := s.regs.set 15 (s.pc + 4) }

/-- The state after a fatal error (R320). -/
def State.haltedBy (s : State) (f : Fault) : State := { s with halted := true, err := some f }

/-! ## The logical view of the register bank (R37) -/

/-- The bank that holds a mode's R13 and R14: System shares User's (R37, R132). -/
def gprBank : Mode → Mode
  | .sys => .usr
  | .usr => .usr | .fiq => .fiq | .irq => .irq | .svc => .svc | .abt => .abt | .und => .und

/-- Whether a register number names the same physical cell in two modes (R37). -/
def sameCell (m m' : Mode) (i : RegIdx) : Bool :=
  if i.toNat < 8 || i == pcIdx then true
  else if i.toNat < 13 then (m == .fiq) == (m' == .fiq)
  else gprBank m == gprBank m'

/-- The value of the physical register that `i` names in mode `m`: the active file where the current mode names the same cell,
else bank storage (R37). -/
def State.regIn (s : State) (m : Mode) (i : RegIdx) : Word :=
  if sameCell m s.mode i then s.read i else (s.storedHigh m)[i.toNat - 8]?.getD 0

/-- The SPSR of mode `m`: the active one in the current mode, else its slot (R33, R34). -/
def State.spsrIn (s : State) (m : Mode) : Word := if m = s.mode then s.spsr else s.storedSpsr m

/-! ## Data processing, by operand form -/

/-- AND with a second operand of any of the three formats. -/
def andI (c : Cond) (sf : Bool) (rn rd : RegIdx) : Operand2 → Instr
  | .imm rot imm8 => .andImm c sf rn rd rot imm8
  | .shImm amt ty rm => .andShImm c sf rn rd amt ty rm
  | .shReg rs ty rm => .andShReg c sf rn rd rs ty rm

/-- EOR with a second operand of any of the three formats. -/
def eorI (c : Cond) (sf : Bool) (rn rd : RegIdx) : Operand2 → Instr
  | .imm rot imm8 => .eorImm c sf rn rd rot imm8
  | .shImm amt ty rm => .eorShImm c sf rn rd amt ty rm
  | .shReg rs ty rm => .eorShReg c sf rn rd rs ty rm

/-- SUB with a second operand of any of the three formats. -/
def subI (c : Cond) (sf : Bool) (rn rd : RegIdx) : Operand2 → Instr
  | .imm rot imm8 => .subImm c sf rn rd rot imm8
  | .shImm amt ty rm => .subShImm c sf rn rd amt ty rm
  | .shReg rs ty rm => .subShReg c sf rn rd rs ty rm

/-- RSB with a second operand of any of the three formats. -/
def rsbI (c : Cond) (sf : Bool) (rn rd : RegIdx) : Operand2 → Instr
  | .imm rot imm8 => .rsbImm c sf rn rd rot imm8
  | .shImm amt ty rm => .rsbShImm c sf rn rd amt ty rm
  | .shReg rs ty rm => .rsbShReg c sf rn rd rs ty rm

/-- ADD with a second operand of any of the three formats. -/
def addI (c : Cond) (sf : Bool) (rn rd : RegIdx) : Operand2 → Instr
  | .imm rot imm8 => .addImm c sf rn rd rot imm8
  | .shImm amt ty rm => .addShImm c sf rn rd amt ty rm
  | .shReg rs ty rm => .addShReg c sf rn rd rs ty rm

/-- ADC with a second operand of any of the three formats. -/
def adcI (c : Cond) (sf : Bool) (rn rd : RegIdx) : Operand2 → Instr
  | .imm rot imm8 => .adcImm c sf rn rd rot imm8
  | .shImm amt ty rm => .adcShImm c sf rn rd amt ty rm
  | .shReg rs ty rm => .adcShReg c sf rn rd rs ty rm

/-- SBC with a second operand of any of the three formats. -/
def sbcI (c : Cond) (sf : Bool) (rn rd : RegIdx) : Operand2 → Instr
  | .imm rot imm8 => .sbcImm c sf rn rd rot imm8
  | .shImm amt ty rm => .sbcShImm c sf rn rd amt ty rm
  | .shReg rs ty rm => .sbcShReg c sf rn rd rs ty rm

/-- RSC with a second operand of any of the three formats. -/
def rscI (c : Cond) (sf : Bool) (rn rd : RegIdx) : Operand2 → Instr
  | .imm rot imm8 => .rscImm c sf rn rd rot imm8
  | .shImm amt ty rm => .rscShImm c sf rn rd amt ty rm
  | .shReg rs ty rm => .rscShReg c sf rn rd rs ty rm

/-- TST with a second operand of any of the three formats. -/
def tstI (c : Cond) (rn : RegIdx) : Operand2 → Instr
  | .imm rot imm8 => .tstImm c rn rot imm8
  | .shImm amt ty rm => .tstShImm c rn amt ty rm
  | .shReg rs ty rm => .tstShReg c rn rs ty rm

/-- TEQ with a second operand of any of the three formats. -/
def teqI (c : Cond) (rn : RegIdx) : Operand2 → Instr
  | .imm rot imm8 => .teqImm c rn rot imm8
  | .shImm amt ty rm => .teqShImm c rn amt ty rm
  | .shReg rs ty rm => .teqShReg c rn rs ty rm

/-- CMP with a second operand of any of the three formats. -/
def cmpI (c : Cond) (rn : RegIdx) : Operand2 → Instr
  | .imm rot imm8 => .cmpImm c rn rot imm8
  | .shImm amt ty rm => .cmpShImm c rn amt ty rm
  | .shReg rs ty rm => .cmpShReg c rn rs ty rm

/-- CMN with a second operand of any of the three formats. -/
def cmnI (c : Cond) (rn : RegIdx) : Operand2 → Instr
  | .imm rot imm8 => .cmnImm c rn rot imm8
  | .shImm amt ty rm => .cmnShImm c rn amt ty rm
  | .shReg rs ty rm => .cmnShReg c rn rs ty rm

/-- ORR with a second operand of any of the three formats. -/
def orrI (c : Cond) (sf : Bool) (rn rd : RegIdx) : Operand2 → Instr
  | .imm rot imm8 => .orrImm c sf rn rd rot imm8
  | .shImm amt ty rm => .orrShImm c sf rn rd amt ty rm
  | .shReg rs ty rm => .orrShReg c sf rn rd rs ty rm

/-- MOV with a second operand of any of the three formats. -/
def movI (c : Cond) (sf : Bool) (rd : RegIdx) : Operand2 → Instr
  | .imm rot imm8 => .movImm c sf rd rot imm8
  | .shImm amt ty rm => .movShImm c sf rd amt ty rm
  | .shReg rs ty rm => .movShReg c sf rd rs ty rm

/-- BIC with a second operand of any of the three formats. -/
def bicI (c : Cond) (sf : Bool) (rn rd : RegIdx) : Operand2 → Instr
  | .imm rot imm8 => .bicImm c sf rn rd rot imm8
  | .shImm amt ty rm => .bicShImm c sf rn rd amt ty rm
  | .shReg rs ty rm => .bicShReg c sf rn rd rs ty rm

/-- MVN with a second operand of any of the three formats. -/
def mvnI (c : Cond) (sf : Bool) (rd : RegIdx) : Operand2 → Instr
  | .imm rot imm8 => .mvnImm c sf rd rot imm8
  | .shImm amt ty rm => .mvnShImm c sf rd amt ty rm
  | .shReg rs ty rm => .mvnShReg c sf rd rs ty rm

/-- The twelve data-processing instructions that write a register, with one operand (R210). -/
def dpWriters (c : Cond) (sf : Bool) (rn rd : RegIdx) (o : Operand2) : List Instr :=
  [andI c sf rn rd o, eorI c sf rn rd o, subI c sf rn rd o, rsbI c sf rn rd o, addI c sf rn rd o, adcI c sf rn rd o,
   sbcI c sf rn rd o, rscI c sf rn rd o, orrI c sf rn rd o, movI c sf rd o, bicI c sf rn rd o, mvnI c sf rd o]

/-- The four comparisons, with one operand (R213). -/
def dpCompares (c : Cond) (rn : RegIdx) (o : Operand2) : List Instr :=
  [tstI c rn o, teqI c rn o, cmpI c rn o, cmnI c rn o]

/-- The state a mode return to `r` ends in (R212): `SpsrAccess` in User and System, `InvalidMode` when SPSR names no mode, else
`pc` = r, CPSR = SPSR and the banks of the mode that SPSR names. -/
def returnResult (s : State) (r : Word) : State :=
  if s.mode = .usr ∨ s.mode = .sys then s.haltedBy (.spsrAccess s.mode)
  else match modeOf (s.spsr.extractLsb' 0 5) with
    | none => s.haltedBy (.invalidMode s.spsr)
    | some m => ({ s with regs := s.regs.set 15 r, cpsr := s.spsr } : State).switchMode m

/-- The state a data-processing instruction with result `r` and flags `n`, `z`, `cy`, `v` ends in, when it writes a register
(R210 to R212). -/
def dpResult (s : State) (sf : Bool) (rd : RegIdx) (r : Word) (n z cy v : Bool) : State :=
  if sf = false then { s with regs := s.regs.set rd.toNat r rd.isLt }
  else if rd = 15 then returnResult s r
  else { s with regs := s.regs.set rd.toNat r rd.isLt, cpsr := withNZCV s.cpsr n z cy v }

/-- The carry flag after a shifter carry-out, from the flag before it (R11). -/
def carryAfter (u : FlagUpd) (old : Bool) : Bool :=
  match u with
  | .set => true
  | .unset => false
  | .pass => old

/-- A mathematical result lies outside the signed 32-bit range: what V reports (R194, R196). -/
def signedOverflow (x : Int) : Bool := decide (x < -2 ^ 31 ∨ 2 ^ 31 ≤ x)

/-! ## Block transfers -/

/-- The number of registers listed below register `i` (R256: the place of `i` in the block). -/
def rank (list : BitVec 16) (i : Nat) : Nat := ((List.range i).filter fun k => list.getLsbD k).length

/-- Register `i` is in the list (R98). -/
def listed (list : BitVec 16) (i : RegIdx) : Bool := list.getLsbD i.toNat

/-- The address register `i` is transferred at, when it is listed (R256, R258). -/
def blockAddr (p u : Bool) (base : Word) (list : BitVec 16) (i : RegIdx) : Word :=
  blockStart p u base list + BitVec.ofNat 32 (4 * rank list i.toNat)

/-- The little-endian word at an address (R63, R64). -/
def Memory.wordAt (m : Memory) (a : Word) : Word := BitVec.ofNat 32 (m.bytesAt a.toNat 4)

/-- Every transfer of a block lies inside the device (R66). -/
def blockInRange (m : Memory) (p u : Bool) (base : Word) (list : BitVec 16) : Prop :=
  ∀ i : RegIdx, listed list i = true → (blockAddr p u base list i).toNat + 4 ≤ m.size

/-- The first transfer that lies outside the device is register `j`'s (R269). -/
def blockFailsAt (m : Memory) (p u : Bool) (base : Word) (list : BitVec 16) (j : RegIdx) : Prop :=
  listed list j = true ∧ m.size < (blockAddr p u base list j).toNat + 4 ∧
  ∀ i : RegIdx, listed list i = true → i.toNat < j.toNat → (blockAddr p u base list i).toNat + 4 ≤ m.size

/-- A byte address lies outside every transfer of a block, or of the part of it below register `j`. -/
def outsideBlock (p u : Bool) (base : Word) (list : BitVec 16) (j : Nat) (x : Nat) : Prop :=
  ∀ i : RegIdx, listed list i = true → i.toNat < j →
    x < (blockAddr p u base list i).toNat ∨ (blockAddr p u base list i).toNat + 4 ≤ x

/-- The state after the base write-back (R257). -/
def afterWriteBack (s : State) (u w : Bool) (rn : RegIdx) (list : BitVec 16) : State :=
  if w then { s with regs := s.regs.set rn.toNat (blockWb u (s.read rn) list) rn.isLt } else s

/-! ## Instructions by kind -/

/-- The instructions that write memory: the three STM forms (R69). -/
def isStore : Instr → Bool
  | .stm .. | .stmUser .. | .stmSPc .. => true
  | _ => false

/-- The block transfers, the only instructions that an `AddressError` leaves half done (R331). -/
def isBlockTransfer : Instr → Bool
  | .ldm .. | .ldmUser .. | .ldmRet .. | .stm .. | .stmUser .. | .stmSPc .. => true
  | _ => false

/-- The stub classes with the label each raises (R300 to R308). -/
def stubsWithLabels (c : Cond) : List (Instr × StubClass) :=
  [(.qadd c, .saturatingArithmetic), (.qsub c, .saturatingArithmetic), (.qdadd c, .saturatingArithmetic),
   (.qdsub c, .saturatingArithmetic), (.smulClass c, .signedMultiply), (.mulClass c, .multiply),
   (.xlsClassH c, .extraLoadStore), (.xlsClassSb c, .extraLoadStore), (.xlsClassSh c, .extraLoadStore),
   (.lsImmClass c, .loadStore), (.lsRegClass c, .loadStore), (.mediaClass c, .media), (.cpLsClass c, .coprocessor),
   (.cpOpClass c, .coprocessor), (.swi c, .softwareInterrupt)]

end Sys2Proof.Machine
end

