-- ==== Sys2Proof/Certificates/Slice0/Obligations.lean ====
section
/-! DEFINITION. The statements for the provers. Every rule named is one of `spec/`; "log <n>" is `notes/assumptions/<n>.md`.
In a statement about `exec` the state is the one after the fetch: `s.pc` is PCx = A + 4 (R162). -/

open Sys2Proof Sys2Proof.Machine

/-! ## Encoding -/

/-- Words the spec writes out as examples decode to the instructions they are examples of (R214, R215, R226, R227, R242 to R245,
R259, R261 to R264, R280, R282 to R284; R300, R308 by the fixed bits of their rows). -/
def Obligations.SampleWordsDecode : Prop :=
  decodeWord 0xE21100FF = .ok (.andImm .al true 1 0 0 0xFF) ∧
  decodeWord 0xE0322002 = .ok (.eorShImm .al true 2 2 0 .lsl 2) ∧
  decodeWord 0xE1810202 = .ok (.orrShImm .al false 1 0 4 .lsl 2) ∧
  decodeWord 0xE1B000A1 = .ok (.movShImm .al true 0 1 .lsr 1) ∧
  decodeWord 0xE3510005 = .ok (.cmpImm .al 1 0 5) ∧
  decodeWord 0xEB000002 = .ok (.bl .al 2) ∧
  decodeWord 0xFB000001 = .ok (.blxImm true 1) ∧
  decodeWord 0xE12FFF1E = .ok (.bx .al 14) ∧
  decodeWord 0xE12FFF32 = .ok (.blxReg .al 2) ∧
  decodeWord 0xE8B00006 = .ok (.ldm .al false true true 0 6) ∧
  decodeWord 0xE8FD8001 = .ok (.ldmRet .al false true true 13 0x8001) ∧
  decodeWord 0xE8D06000 = .ok (.ldmUser .al false true false 0 0x6000) ∧
  decodeWord 0xE8880029 = .ok (.stm .al false true false 8 0x29) ∧
  decodeWord 0xE8C02000 = .ok (.stmUser .al false true false 0 0x2000) ∧
  decodeWord 0xE10F0000 = .ok (.mrs .al .cpsr 0) ∧
  decodeWord 0xE321F0D2 = .ok (.msrImm .al .cpsr 1 0 0xD2) ∧
  decodeWord 0xE16FF000 = .ok (.msrReg .al .spsr 15 0) ∧
  decodeWord 0xE16F0F11 = .ok (.clz .al 0 1) ∧
  decodeWord 0xE0000291 = .ok (.mulClass .al) ∧
  decodeWord 0xEF000000 = .ok (.swi .al)

/-- Decode and encode agree: every well-formed instruction is decoded from the word that encodes it, with every operand at every
value (R91 to R101, R102 to R112). -/
def Obligations.DecodeEncode : Prop :=
  ∀ i : Instr, i.wf = true → decodeWord (encode i) = .ok i

/-- The same through memory's bytes: the four bytes of an instruction, lowest address first, decode to it and leave the bytes
after it; the host's table form decodes to it too (R63, R90). -/
def Obligations.DecodeEncodeBytes : Prop :=
  ∀ (i : Instr) (rest : List Byte), i.wf = true →
    decode (encodeBytes i ++ rest) = .ok (i, rest) ∧ decodeTableWord 32 (encode i).toNat = some i

/-- What the decoder answers is well formed. -/
def Obligations.DecodedIsWellFormed : Prop :=
  ∀ (w : Word) (i : Instr), decodeWord w = .ok i → i.wf = true

/-- The decode tree (R102 to R112) and the opcode table (R120) select alike: the decoder answers an instruction of row `k` for
exactly the words that row `k` selects. So at most one row matches any word, and a word no row matches is rejected. -/
def Obligations.DecodeMatchesOpcodeTable : Prop :=
  ∀ (w : Word) (k : Nat),
    (∃ r, opcodeTable[k]? = some r ∧ r.selects w = true) ↔ (∃ i, decodeWord w = .ok i ∧ i.rowIndex = k)

/-- The words the decoder rejects are the six sets of R116, a list the spec marks as derived from R102 to R112. -/
def Obligations.DecodeFailureWords : Prop :=
  ∀ w : Word, (∃ r, decodeWord w = .error r) ↔
    (w.extractLsb' 28 4 = 0b1111 ∧ w.extractLsb' 25 3 ≠ 0b101) ∨
    (w.extractLsb' 28 4 ≠ 0b1111 ∧
      ((w.extractLsb' 23 5 = 0b00110 ∧ w.extractLsb' 20 2 = 0b00) ∨
       (w.extractLsb' 23 5 = 0b00010 ∧ w.getLsbD 20 = false ∧
          (w.extractLsb' 4 4 = 0b0010 ∨ w.extractLsb' 4 4 = 0b0100 ∨ w.extractLsb' 4 4 = 0b0110 ∨ w.extractLsb' 4 4 = 0b0111)) ∨
       (w.extractLsb' 23 5 = 0b00010 ∧ w.getLsbD 20 = false ∧ w.extractLsb' 4 4 = 0b0001 ∧
          (w.extractLsb' 21 2 = 0b00 ∨ w.extractLsb' 21 2 = 0b10)) ∨
       (w.extractLsb' 23 5 = 0b00010 ∧ w.getLsbD 20 = false ∧ w.extractLsb' 4 4 = 0b0011 ∧ w.extractLsb' 21 2 ≠ 0b01) ∨
       (w.extractLsb' 24 4 = 0b0001 ∧ w.extractLsb' 4 4 = 0b1001)))

/-- The should-be-zero and should-be-one fields of BX, BLX (register), CLZ, MRS and MSR may hold anything (R118, formats R97 and
R99 to R101). -/
def Obligations.IgnoredFieldsAreNotTested : Prop :=
  ∀ (c : Cond) (psr : Psr) (rd rm mask rot a b d : BitVec 4) (imm8 : BitVec 8) (x : BitVec 12),
    decodeWord (c.code ++ 0x12#8 ++ x ++ 0b0001#4 ++ rm) = .ok (.bx c rm) ∧
    decodeWord (c.code ++ 0x12#8 ++ x ++ 0b0011#4 ++ rm) = .ok (.blxReg c rm) ∧
    decodeWord (c.code ++ 0x16#8 ++ a ++ rd ++ b ++ 0b0001#4 ++ rm) = .ok (.clz c rd rm) ∧
    decodeWord (c.code ++ 0b00010#5 ++ psr.code ++ 0b00#2 ++ a ++ rd ++ b ++ 0b0000#4 ++ d) = .ok (.mrs c psr rd) ∧
    decodeWord (c.code ++ 0b00010#5 ++ psr.code ++ 0b10#2 ++ mask ++ a ++ b ++ 0b0000#4 ++ rm) = .ok (.msrReg c psr mask rm) ∧
    decodeWord (c.code ++ 0b00110#5 ++ psr.code ++ 0b10#2 ++ mask ++ a ++ rot ++ imm8) = .ok (.msrImm c psr mask rot imm8)

/-- The Rn field of MOV and MVN and the Rd field of TST, TEQ, CMP and CMN are ignored in all three formats (R92, R213, R227,
R229). -/
def Obligations.IgnoredRegisterFields : Prop :=
  ∀ (c : Cond) (sf : Bool) (r x rs rm rot : BitVec 4) (imm8 : BitVec 8) (amt : BitVec 5) (ty : ShiftType) (o : Operand2)
    (enc : Cond → BitVec 4 → Bool → RegIdx → RegIdx → Word),
    (o = .imm rot imm8 ∧ enc = fun c op s n d => encDpImm c op s n d rot imm8) ∨
    (o = .shImm amt ty rm ∧ enc = fun c op s n d => encDpShImm c op s n d amt ty rm) ∨
    (o = .shReg rs ty rm ∧ enc = fun c op s n d => encDpShReg c op s n d rs ty rm) →
    decodeWord (enc c 0b1101 sf x r) = .ok (movI c sf r o) ∧ decodeWord (enc c 0b1111 sf x r) = .ok (mvnI c sf r o) ∧
    decodeWord (enc c 0b1000 true r x) = .ok (tstI c r o) ∧ decodeWord (enc c 0b1001 true r x) = .ok (teqI c r o) ∧
    decodeWord (enc c 0b1010 true r x) = .ok (cmpI c r o) ∧ decodeWord (enc c 0b1011 true r x) = .ok (cmnI c r o)

/-! ## The step -/

/-- A step runs the decoded instruction: the word at `pc` decodes to `i`, and the step is `exec i` after the fetch has written
`IR` and advanced `pc` by 4. (Where the condition fails, `exec i` changes nothing.) -/
def Obligations.StepRunsDecoded : Prop :=
  ∀ (s : State) (i : Instr), s.Fetchable → decodeWord (s.mem.wordAt s.pc) = .ok i →
    step s = exec i (s.fetched (s.mem.wordAt s.pc))

/-- An encoded instruction placed where the core fetches next is fetched and run by the next step, as a driver's load of a
program does (R354, R358; log 4). -/
def Obligations.PlacedInstructionRuns : Prop :=
  ∀ (s : State) (i : Instr), s.Fetchable → s.mem.wf = true → i.wf = true →
    step (s.withFetchWord 32 (encode i).toNat) =
      exec i (({ s with mem := s.mem.setBytes s.pc.toNat (encode i) 4 } : State).fetched (encode i))

/-- R165: a word whose condition fails is a no-op whatever its other bits; only `IR` and `pc` change. -/
def Obligations.FailedConditionIsNoOp : Prop :=
  ∀ s : State, s.Fetchable → condPassed ((s.mem.wordAt s.pc).extractLsb' 28 4) s.cpsr = false →
    step s = .next (s.fetched (s.mem.wordAt s.pc))

/-- R322: a word whose condition passes and that selects no row halts the core with `DecodeFailure(IR)`; `pc` = A + 4, `IR` = the
word, and nothing else has changed. -/
def Obligations.UndecodedWordHalts : Prop :=
  ∀ (s : State) (r : Reject), s.Fetchable → condPassed ((s.mem.wordAt s.pc).extractLsb' 28 4) s.cpsr = true →
    decodeWord (s.mem.wordAt s.pc) = .error r →
    step s = .next ((s.fetched (s.mem.wordAt s.pc)).haltedBy (.decodeFailure (s.mem.wordAt s.pc)))

/-- An ARM-state fetch out of range halts the core with `AddressError(pc)`; `pc` and `IR` are unchanged (R161, R324). -/
def Obligations.FetchOutOfRangeHalts : Prop :=
  ∀ s : State, s.RunArm → s.mem.size < s.pc.toNat + 4 → step s = .next (s.haltedBy (.addressError s.pc))

/-- R163: in Thumb state a step fetches a halfword, advances `pc` by 2 and halts with `Unimplemented(Thumb)`; a halfword out of
range halts it with `AddressError(pc)` (R324). -/
def Obligations.ThumbStepHalts : Prop :=
  ∀ s : State, s.halted = false → flagT s.cpsr = true →
    step s = .next (if s.pc.toNat + 2 ≤ s.mem.size then
      ({ s with ir := BitVec.ofNat 32 ((s.mem.byte s.pc.toNat).toNat + 256 * (s.mem.byte (s.pc.toNat + 1)).toNat),
                regs := s.regs.set 15 (s.pc + 2) } : State).haltedBy (.unimplemented .thumb)
    else s.haltedBy (.addressError s.pc))

/-- R167: a halted core's step does nothing, no driver call but `reset()` leaves the halt, and `reset()` does. -/
def Obligations.HaltedIsAbsorbing : Prop :=
  ∀ (s : State) (c : Config), s.halted = true →
    step s = .next s ∧ (s.driverReset c).halted = false ∧
    ∀ (call : DriverCall) (c' : Config) (t : State),
      driverCall call (.live c s) = .next (.live c' t) → call ≠ .reset → t.halted = true

/-! ## The condition evaluator -/

/-- R150: the fifteen conditions and the reserved code, with the negation pairs. -/
def Obligations.ConditionTable : Prop :=
  ∀ v : Word,
    condPassed 0b0000 v = flagZ v ∧ condPassed 0b0001 v = !flagZ v ∧
    condPassed 0b0010 v = flagC v ∧ condPassed 0b0011 v = !flagC v ∧
    condPassed 0b0100 v = flagN v ∧ condPassed 0b0101 v = !flagN v ∧
    condPassed 0b0110 v = flagV v ∧ condPassed 0b0111 v = !flagV v ∧
    condPassed 0b1000 v = (flagC v && !flagZ v) ∧ condPassed 0b1001 v = (!flagC v || flagZ v) ∧
    condPassed 0b1010 v = (flagN v == flagV v) ∧ condPassed 0b1011 v = (flagN v != flagV v) ∧
    condPassed 0b1100 v = (!flagZ v && flagN v == flagV v) ∧ condPassed 0b1101 v = (flagZ v || flagN v != flagV v) ∧
    condPassed 0b1110 v = true ∧ condPassed 0b1111 v = true ∧
    ∀ code : BitVec 4, code.toNat ≤ 0b1101 → condPassed (code ^^^ 1) v = !condPassed code v

/-- After CMP the conditions compare the operands: EQ, HS, HI unsigned, GE, GT, LT, LE signed (R224). -/
def Obligations.ConditionsAfterCompare : Prop :=
  ∀ (rn : RegIdx) (o : Operand2) (s t : State), exec (cmpI .al rn o) s = .next t →
    let a := s.read rn
    let b := (shifterOperand o s).op2
    (condPassed Cond.eq.code t.cpsr = true ↔ a = b) ∧
    (condPassed Cond.cs.code t.cpsr = true ↔ b.toNat ≤ a.toNat) ∧
    (condPassed Cond.hi.code t.cpsr = true ↔ b.toNat < a.toNat) ∧
    (condPassed Cond.ge.code t.cpsr = true ↔ b.toInt ≤ a.toInt) ∧
    (condPassed Cond.gt.code t.cpsr = true ↔ b.toInt < a.toInt) ∧
    (condPassed Cond.lt.code t.cpsr = true ↔ a.toInt < b.toInt) ∧
    (condPassed Cond.le.code t.cpsr = true ↔ a.toInt ≤ b.toInt)

/-! ## The shifter and the adder -/

/-- R181: rotation right by n mod 32 places, bit by bit. -/
def Obligations.RotateRightBits : Prop :=
  ∀ (v : Word) (n i : Nat), i < 32 →
    (ror32 v n).getLsbD i = v.getLsbD ((i + n % 32) % 32) ∧ (n % 32 = 0 → ror32 v n = v)

/-- R184: the immediate operand is the 8-bit value rotated right by twice the rotate field, bit by bit; the carry passes when the
field is 0, else it is bit 31 of the result. -/
def Obligations.ImmediateOperand : Prop :=
  ∀ (rot : BitVec 4) (imm8 : BitVec 8) (s : State),
    let r := shifterOperand (.imm rot imm8) s
    (∀ i, i < 32 → r.op2.getLsbD i = imm8.getLsbD ((i + 2 * rot.toNat) % 32)) ∧
    r.sco = if rot = 0 then .pass else if r.op2.getLsbD 31 then .set else .unset

/-- R185 to R188: a register shifted by an immediate amount, with the meanings of amount 0 (no shift, 32, 32, RRX). -/
def Obligations.ImmediateShifts : Prop :=
  ∀ (amt : BitVec 5) (rm : RegIdx) (s : State),
    let v := s.read rm
    let n := amt.toNat
    let carry (k : Nat) : FlagUpd := if v.getLsbD k then .set else .unset
    let lsl := shifterOperand (.shImm amt .lsl rm) s
    let lsr := shifterOperand (.shImm amt .lsr rm) s
    let asr := shifterOperand (.shImm amt .asr rm) s
    let ror := shifterOperand (.shImm amt .ror rm) s
    (n = 0 → lsl.op2 = v ∧ lsl.sco = .pass ∧
      lsr.op2 = 0 ∧ lsr.sco = carry 31 ∧
      asr.op2 = (if v.getLsbD 31 then 0xFFFFFFFF else 0) ∧ asr.sco = carry 31 ∧
      ror.op2.toNat = (flagC s.cpsr).toNat * 2 ^ 31 + v.toNat / 2 ∧ ror.sco = carry 0) ∧
    (1 ≤ n → lsl.op2.toNat = v.toNat * 2 ^ n % 2 ^ 32 ∧ lsl.sco = carry (32 - n) ∧
      lsr.op2.toNat = v.toNat / 2 ^ n ∧ lsr.sco = carry (n - 1) ∧
      asr.op2.toInt = v.toInt / 2 ^ n ∧ asr.sco = carry (n - 1) ∧
      (∀ i, i < 32 → ror.op2.getLsbD i = v.getLsbD ((i + n) % 32)) ∧ ror.sco = carry (n - 1))

/-- R189 to R193: a register shifted by the low byte of another, 0 to 255 places. -/
def Obligations.RegisterShifts : Prop :=
  ∀ (rs rm : RegIdx) (s : State),
    let v := s.read rm
    let n := (s.read rs).toNat % 256
    let carry (k : Nat) : FlagUpd := if v.getLsbD k then .set else .unset
    let lsl := shifterOperand (.shReg rs .lsl rm) s
    let lsr := shifterOperand (.shReg rs .lsr rm) s
    let asr := shifterOperand (.shReg rs .asr rm) s
    let ror := shifterOperand (.shReg rs .ror rm) s
    (n = 0 → ∀ ty, shifterOperand (.shReg rs ty rm) s = ⟨v, .pass⟩) ∧
    (1 ≤ n → lsl.op2.toNat = v.toNat * 2 ^ n % 2 ^ 32 ∧
      lsl.sco = (if n ≤ 32 then carry (32 - n) else .unset) ∧
      lsr.op2.toNat = v.toNat / 2 ^ n ∧ lsr.sco = (if n ≤ 32 then carry (n - 1) else .unset) ∧
      asr.op2.toInt = v.toInt / 2 ^ n ∧ asr.sco = carry (min n 32 - 1) ∧
      (∀ i, i < 32 → ror.op2.getLsbD i = v.getLsbD ((i + n) % 32)) ∧
      ror.sco = carry ((n + 31) % 32))

/-- R194: the adder's result, carry and overflow, the overflow also as the signed sum leaving the 32-bit range. -/
def Obligations.AdderCarryAndOverflow : Prop :=
  ∀ (a b : Word) (cin : Bool),
    let u := a.toNat + b.toNat + cin.toNat
    let o := addWithCarry a b cin
    o.r.toNat = u % 2 ^ 32 ∧ o.cf = (if 2 ^ 32 ≤ u then .set else .unset) ∧
    o.vf = (if a.getLsbD 31 = b.getLsbD 31 ∧ o.r.getLsbD 31 ≠ a.getLsbD 31 then .set else .unset) ∧
    (o.vf = .set ↔ a.toInt + b.toInt + cin.toNat < -2 ^ 31 ∨ 2 ^ 31 ≤ a.toInt + b.toInt + cin.toNat)

/-! ## Data processing. `dpResult` (Safety) says what R210 to R212 do with a result and its flags. -/

/-- R214, R215, R226 to R229: AND, EOR, ORR, BIC, MOV and MVN; C from the shifter unless it passes, V unchanged. -/
def Obligations.LogicalResults : Prop :=
  ∀ (c : Cond) (sf : Bool) (rn rd : RegIdx) (o : Operand2) (s : State),
    let a := s.read rn
    let b := (shifterOperand o s).op2
    let cy := carryAfter (shifterOperand o s).sco (flagC s.cpsr)
    let out (r : Word) : Host.Outcome State Fault Refusal :=
      .next (if condPassed c.code s.cpsr then dpResult s sf rd r (r.getLsbD 31) (decide (r = 0)) cy (flagV s.cpsr) else s)
    exec (andI c sf rn rd o) s = out (a &&& b) ∧ exec (eorI c sf rn rd o) s = out (a ^^^ b) ∧
    exec (orrI c sf rn rd o) s = out (a ||| b) ∧ exec (bicI c sf rn rd o) s = out (a &&& ~~~b) ∧
    exec (movI c sf rd o) s = out b ∧ exec (mvnI c sf rd o) s = out (~~~b)

/-- R218, R219: ADD and ADC; carry is the unsigned sum leaving 32 bits, overflow the signed sum leaving the signed range. -/
def Obligations.AddResults : Prop :=
  ∀ (c : Cond) (sf : Bool) (rn rd : RegIdx) (o : Operand2) (s : State),
    let a := s.read rn
    let b := (shifterOperand o s).op2
    let out (cin : Bool) : Host.Outcome State Fault Refusal :=
      let r := a + b + BitVec.ofNat 32 cin.toNat
      .next (if condPassed c.code s.cpsr then
        dpResult s sf rd r (r.getLsbD 31) (decide (r = 0)) (decide (2 ^ 32 ≤ a.toNat + b.toNat + cin.toNat))
          (signedOverflow (a.toInt + b.toInt + cin.toNat)) else s)
    exec (addI c sf rn rd o) s = out false ∧ exec (adcI c sf rn rd o) s = out (flagC s.cpsr)

/-- R216, R217: SUB and RSB; carry is set when there is no borrow. -/
def Obligations.SubtractResults : Prop :=
  ∀ (c : Cond) (sf : Bool) (rn rd : RegIdx) (o : Operand2) (s : State),
    let a := s.read rn
    let b := (shifterOperand o s).op2
    let out (x y : Word) : Host.Outcome State Fault Refusal :=
      .next (if condPassed c.code s.cpsr then
        dpResult s sf rd (x - y) ((x - y).getLsbD 31) (decide (x = y)) (decide (y.toNat ≤ x.toNat))
          (signedOverflow (x.toInt - y.toInt)) else s)
    exec (subI c sf rn rd o) s = out a b ∧ exec (rsbI c sf rn rd o) s = out b a

/-- R220, R221: SBC and RSC, which also subtract the inverse of C. -/
def Obligations.SubtractCarryResults : Prop :=
  ∀ (c : Cond) (sf : Bool) (rn rd : RegIdx) (o : Operand2) (s : State),
    let a := s.read rn
    let b := (shifterOperand o s).op2
    let borrow : Nat := (!flagC s.cpsr).toNat
    let out (x y : Word) : Host.Outcome State Fault Refusal :=
      let r := x - y - BitVec.ofNat 32 borrow
      .next (if condPassed c.code s.cpsr then
        dpResult s sf rd r (r.getLsbD 31) (decide (r = 0)) (decide (y.toNat + borrow ≤ x.toNat))
          (signedOverflow (x.toInt - y.toInt - borrow)) else s)
    exec (sbcI c sf rn rd o) s = out a b ∧ exec (rscI c sf rn rd o) s = out b a

/-- R222 to R225, R213: TST, TEQ, CMP and CMN write the four flags and nothing else. -/
def Obligations.CompareResults : Prop :=
  ∀ (c : Cond) (rn : RegIdx) (o : Operand2) (s : State),
    let a := s.read rn
    let b := (shifterOperand o s).op2
    let cy := carryAfter (shifterOperand o s).sco (flagC s.cpsr)
    let out (r : Word) (cf vf : Bool) : Host.Outcome State Fault Refusal :=
      .next (if condPassed c.code s.cpsr then
        { s with cpsr := withNZCV s.cpsr (r.getLsbD 31) (decide (r = 0)) cf vf } else s)
    exec (tstI c rn o) s = out (a &&& b) cy (flagV s.cpsr) ∧
    exec (teqI c rn o) s = out (a ^^^ b) cy (flagV s.cpsr) ∧
    exec (cmpI c rn o) s = out (a - b) (decide (b.toNat ≤ a.toNat)) (signedOverflow (a.toInt - b.toInt)) ∧
    exec (cmnI c rn o) s = out (a + b) (decide (2 ^ 32 ≤ a.toNat + b.toNat)) (signedOverflow (a.toInt + b.toInt))

/-- R197: the flag write sets bits 31 to 28 to N, Z, C, V and leaves the other 28 bits alone. -/
def Obligations.FlagWriteBits : Prop :=
  ∀ (v : Word) (n z c o : Bool) (i : Nat),
    (withNZCV v n z c o).getLsbD i =
      if i = 31 then n else if i = 30 then z else if i = 29 then c else if i = 28 then o else v.getLsbD i

/-- The frame of the forty-eight data-processing instructions, the mode return (S = 1, Rd = 15 of a writing opcode) apart: no
register but Rd changes, and none for a comparison; CPSR changes in bits 31 to 28 only, and only when S = 1; every byte of memory,
SPSR, `mode`, bank slot, `IR`, the halt and the error are unchanged (R197, R210, R211, R213). -/
def Obligations.DataProcessingFrame : Prop :=
  ∀ (c : Cond) (sf : Bool) (rn rd : RegIdx) (o : Operand2) (i : Instr) (s t : State),
    (i ∈ dpWriters c sf rn rd o ∧ (sf = true → rd ≠ 15)) ∨ (i ∈ dpCompares c rn o ∧ sf = true) → exec i s = .next t →
    (∀ k : RegIdx, k ≠ rd ∨ i ∈ dpCompares c rn o → t.read k = s.read k) ∧
    (∀ k, k < 28 ∨ sf = false → t.cpsr.getLsbD k = s.cpsr.getLsbD k) ∧
    (∀ a, t.mem.byte a = s.mem.byte a) ∧ t = { s with regs := t.regs, cpsr := t.cpsr }

/-- R212: destination R15 with S = 1. In User and System mode `SpsrAccess`, with an SPSR that names no mode `InvalidMode`, both
with nothing else changed; otherwise `pc` takes what the S = 0 form writes there, CPSR takes SPSR, and `mode` and the visible bank
are those SPSR names, while every register but `pc`, every mode's SPSR and memory keep their values. -/
def Obligations.ModeReturn : Prop :=
  ∀ (c : Cond) (rn : RegIdx) (o : Operand2) (k : Nat) (i j : Instr) (s : State),
    (dpWriters c true rn 15 o)[k]? = some i → (dpWriters c false rn 15 o)[k]? = some j →
    condPassed c.code s.cpsr = true →
    (s.mode = .usr ∨ s.mode = .sys → exec i s = .next (s.haltedBy (.spsrAccess s.mode))) ∧
    (s.mode ≠ .usr ∧ s.mode ≠ .sys → modeOf (s.spsr.extractLsb' 0 5) = none →
      exec i s = .next (s.haltedBy (.invalidMode s.spsr))) ∧
    (s.mode ≠ .usr ∧ s.mode ≠ .sys → ∀ m, modeOf (s.spsr.extractLsb' 0 5) = some m →
      ∃ t u, exec i s = .next t ∧ exec j s = .next u ∧ t.pc = u.pc ∧ t.cpsr = s.spsr ∧ t.mode = m ∧
        (∀ (m' : Mode) (r : RegIdx), r ≠ 15 → t.regIn m' r = s.regIn m' r) ∧
        (∀ m' : Mode, m'.hasSpsr = true → t.spsrIn m' = s.spsrIn m') ∧
        (∀ a, t.mem.byte a = s.mem.byte a) ∧
        t.mem = s.mem ∧ t.ir = s.ir ∧ t.halted = s.halted ∧ t.err = s.err)

/-- Inverse operations restore a register, overflow or not: ADD then SUB of one immediate, EOR twice, RSB twice, and MVN of MVN
(R201, which the spec marks as derived from R194 and R196). -/
def Obligations.InverseOperations : Prop :=
  ∀ (rd : RegIdx) (rot : BitVec 4) (imm8 : BitVec 8) (s t u : State), rd ≠ 15 →
    let o : Operand2 := .imm rot imm8
    (exec (addI .al false rd rd o) s = .next t → exec (subI .al false rd rd o) t = .next u → u = s) ∧
    (exec (eorI .al false rd rd o) s = .next t → exec (eorI .al false rd rd o) t = .next u → u = s) ∧
    (exec (rsbI .al false rd rd o) s = .next t → exec (rsbI .al false rd rd o) t = .next u → u = s) ∧
    (exec (mvnI .al false rd (.shImm 0 .lsl rd)) s = .next t → exec (mvnI .al false rd (.shImm 0 .lsl rd)) t = .next u → u = s)

/-! ## Branches -/

/-- R241 to R243: B, BL and BLX (immediate), with the offset as the signed number 4 * imm24 (plus 2 for H = 1) from PCx + 4; BL and
BLX write PCx + 4 to R14; BLX sets T and always runs. Nothing else changes. -/
def Obligations.BranchResults : Prop :=
  ∀ (c : Cond) (h : Bool) (imm24 : BitVec 24) (s : State),
    let target := s.pc + 4 + BitVec.ofInt 32 (4 * imm24.toInt)
    exec (.b c imm24) s = .next (if condPassed c.code s.cpsr then { s with regs := s.regs.set 15 target } else s) ∧
    exec (.bl c imm24) s = .next (if condPassed c.code s.cpsr then
      { s with regs := (s.regs.set 14 (s.pc + 4)).set 15 target } else s) ∧
    exec (.blxImm h imm24) s = .next
      { s with regs := (s.regs.set 14 (s.pc + 4)).set 15 (target + BitVec.ofNat 32 (2 * h.toNat)), cpsr := s.cpsr ||| 0x20 }

/-- R244, R245: BX and BLX (register): bit 0 of Rm is cleared in `pc` and becomes T; BLX writes PCx + 4 to R14 after reading Rm.
Nothing else changes. -/
def Obligations.ExchangeResults : Prop :=
  ∀ (c : Cond) (rm : RegIdx) (s : State),
    let v := s.read rm
    let cpsr' := if v.getLsbD 0 then s.cpsr ||| 0x20 else s.cpsr &&& 0xFFFFFFDF
    exec (.bx c rm) s = .next (if condPassed c.code s.cpsr then
      { s with regs := s.regs.set 15 (v &&& 0xFFFFFFFE), cpsr := cpsr' } else s) ∧
    exec (.blxReg c rm) s = .next (if condPassed c.code s.cpsr then
      { s with regs := (s.regs.set 14 (s.pc + 4)).set 15 (v &&& 0xFFFFFFFE), cpsr := cpsr' } else s)

/-- A call fetched from address A goes to A + 8 + offset and links A + 8 (R240, R242, R246). A callee that still has that link value
returns by MOV PC, LR to A + 8, by SUB PC, LR, #4 to A + 4, and by BX LR to A + 8 with bit 0 cleared and T written from it; a
return changes nothing else but IR (R211, R244, R247). -/
def Obligations.CallFromAddress : Prop :=
  ∀ (s : State) (imm24 : BitVec 24), s.Fetchable → s.mem.wordAt s.pc = encode (.bl .al imm24) →
    ∃ t, step s = .next t ∧ t.pc = s.pc + 8 + BitVec.ofInt 32 (4 * imm24.toInt) ∧ t.read 14 = s.pc + 8 ∧
      (∀ r : RegIdx, r.toNat < 14 → t.read r = s.read r) ∧ (∀ a, t.mem.byte a = s.mem.byte a) ∧
      t = { s with regs := t.regs, ir := s.mem.wordAt s.pc } ∧
      ∀ u : State, u.Fetchable → u.read 14 = t.read 14 →
        let word := u.mem.wordAt u.pc
        (word = encode (.movShImm .al false 15 0 .lsl 14) → step u = .next { u with regs := u.regs.set 15 (s.pc + 8), ir := word }) ∧
        (word = encode (.subImm .al false 14 15 0 4) → step u = .next { u with regs := u.regs.set 15 (s.pc + 4), ir := word }) ∧
        (word = encode (.bx .al 14) → step u = .next
          { u with
            regs := u.regs.set 15 ((s.pc + 8) &&& 0xFFFFFFFE)
            cpsr := if (s.pc + 8).getLsbD 0 then u.cpsr ||| 0x20 else u.cpsr &&& 0xFFFFFFDF
            ir := word })

/-! ## Block transfers. Addresses are `blockAddr p u base list i`, with `base` the value of Rn before the instruction. -/

/-- R256: the start address and the written-back base of the four addressing modes, `cnt` being the number of listed registers;
the registers follow one another by 4 in ascending register number. -/
def Obligations.BlockAddresses : Prop :=
  ∀ (base : Word) (list : BitVec 16),
    let size := BitVec.ofNat 32 (4 * rank list 16)
    blockStart false true base list = base ∧ blockStart true true base list = base + 4 ∧
    blockStart false false base list = base - size + 4 ∧ blockStart true false base list = base - size ∧
    blockWb true base list = base + size ∧ blockWb false base list = base - size ∧
    (∀ (p u : Bool) (i : RegIdx), listed list i = true → (∀ j : RegIdx, j.toNat < i.toNat → listed list j = false) →
      blockAddr p u base list i = blockStart p u base list) ∧
    (∀ (p u : Bool) (i j : RegIdx), i.toNat < j.toNat → listed list i = true → listed list j = true →
      (∀ k : RegIdx, i.toNat < k.toNat → k.toNat < j.toNat → listed list k = false) →
      blockAddr p u base list j = blockAddr p u base list i + 4)

/-- R259, R260: LDM. Every listed register holds the word at its address, whatever the write-back put there; a listed R15 has bit
0 cleared, and sets T when that bit was 1; every other register is as the write-back left it; nothing else changes. -/
def Obligations.LdmResult : Prop :=
  ∀ (c : Cond) (p u w : Bool) (rn : RegIdx) (list : BitVec 16) (s : State), condPassed c.code s.cpsr = true →
    blockInRange s.mem p u (s.read rn) list →
    ∃ t, exec (.ldm c p u w rn list) s = .next t ∧
      (∀ i : RegIdx, i ≠ 15 → t.read i = if listed list i then s.mem.wordAt (blockAddr p u (s.read rn) list i)
        else (afterWriteBack s u w rn list).read i) ∧
      (let v := s.mem.wordAt (blockAddr p u (s.read rn) list 15)
       t.pc = (if listed list 15 then v &&& 0xFFFFFFFE else (afterWriteBack s u w rn list).pc) ∧
       t.cpsr = if listed list 15 && v.getLsbD 0 then s.cpsr ||| 0x20 else s.cpsr) ∧
      (∀ a, t.mem.byte a = s.mem.byte a) ∧ t = { s with regs := t.regs, cpsr := t.cpsr }

/-- R262, R266: LDM of the User bank. The listed registers of User take the loaded words; every other register cell of every mode is
as the write-back left it; `mode`, CPSR, every SPSR and memory are unchanged. -/
def Obligations.LdmUserResult : Prop :=
  ∀ (c : Cond) (p u w : Bool) (rn : RegIdx) (list : BitVec 16) (s : State), condPassed c.code s.cpsr = true →
    listed list 15 = false → blockInRange s.mem p u (s.read rn) list →
    ∃ t, exec (.ldmUser c p u w rn list) s = .next t ∧
      (∀ (m : Mode) (i : RegIdx), t.regIn m i =
        if listed list i ∧ sameCell .usr m i = true then s.mem.wordAt (blockAddr p u (s.read rn) list i)
        else (afterWriteBack s u w rn list).regIn m i) ∧
      (∀ m : Mode, m.hasSpsr = true → t.spsrIn m = s.spsrIn m) ∧ (∀ a, t.mem.byte a = s.mem.byte a) ∧
      t.mode = s.mode ∧ t.cpsr = s.cpsr ∧ t.spsr = s.spsr ∧ t.mem = s.mem ∧ t.ir = s.ir ∧ t.halted = s.halted ∧ t.err = s.err

/-- R261: LDM with CPSR restore. It checks SPSR first: in User and System mode it raises `SpsrAccess`, with an SPSR that names no
mode `InvalidMode`, and nothing is loaded or written back. Otherwise the loads go to the bank of the starting mode, `pc` takes the
loaded word with bit 0 cleared, then CPSR takes SPSR and `mode` is the one it names. -/
def Obligations.LdmRetResult : Prop :=
  ∀ (c : Cond) (p u w : Bool) (rn : RegIdx) (list : BitVec 16) (s : State), condPassed c.code s.cpsr = true →
    listed list 15 = true →
    (s.mode = .usr ∨ s.mode = .sys → exec (.ldmRet c p u w rn list) s = .next (s.haltedBy (.spsrAccess s.mode))) ∧
    (s.mode ≠ .usr ∧ s.mode ≠ .sys → modeOf (s.spsr.extractLsb' 0 5) = none →
      exec (.ldmRet c p u w rn list) s = .next (s.haltedBy (.invalidMode s.spsr))) ∧
    (s.mode ≠ .usr ∧ s.mode ≠ .sys → blockInRange s.mem p u (s.read rn) list →
      ∀ m, modeOf (s.spsr.extractLsb' 0 5) = some m →
      ∃ t, exec (.ldmRet c p u w rn list) s = .next t ∧
        t.pc = s.mem.wordAt (blockAddr p u (s.read rn) list 15) &&& 0xFFFFFFFE ∧ t.cpsr = s.spsr ∧ t.mode = m ∧
        (∀ (m' : Mode) (i : RegIdx), i ≠ 15 → t.regIn m' i =
          if listed list i ∧ sameCell s.mode m' i = true then s.mem.wordAt (blockAddr p u (s.read rn) list i)
          else (afterWriteBack s u w rn list).regIn m' i) ∧
        (∀ m' : Mode, m'.hasSpsr = true → t.spsrIn m' = s.spsrIn m') ∧ (∀ a, t.mem.byte a = s.mem.byte a) ∧
        t.mem = s.mem ∧ t.ir = s.ir ∧ t.halted = s.halted ∧ t.err = s.err)

/-- R263, R265, R267, R268: STM, and STM_S_PC which acts exactly as STM. Every listed register's word, read after the write-back and
with R15 as stored, stands at its address; every byte outside the stored words is unchanged; no register but the written-back base
changes, and nothing else. -/
def Obligations.StmResult : Prop :=
  ∀ (c : Cond) (p u w : Bool) (rn : RegIdx) (list : BitVec 16) (i : Instr) (s : State), condPassed c.code s.cpsr = true →
    i = .stm c p u w rn list ∨ i = .stmSPc c p u w rn list →
    s.mem.wf = true → blockInRange s.mem p u (s.read rn) list →
    ∃ t, exec i s = .next t ∧
      (∀ r : RegIdx, listed list r = true →
        t.mem.wordAt (blockAddr p u (s.read rn) list r) = (afterWriteBack s u w rn list).read r) ∧
      (∀ a, outsideBlock p u (s.read rn) list 16 a → t.mem.byte a = s.mem.byte a) ∧
      t = { afterWriteBack s u w rn list with mem := t.mem }

/-- R264, R266: STM of the User bank. The words stored are User's registers; every byte outside them is unchanged; every register
cell of every mode is as the write-back left it, and `mode`, CPSR and every SPSR are unchanged. -/
def Obligations.StmUserResult : Prop :=
  ∀ (c : Cond) (p u w : Bool) (rn : RegIdx) (list : BitVec 16) (s : State), condPassed c.code s.cpsr = true →
    listed list 15 = false → s.mem.wf = true → blockInRange s.mem p u (s.read rn) list →
    ∃ t, exec (.stmUser c p u w rn list) s = .next t ∧
      (∀ r : RegIdx, listed list r = true →
        t.mem.wordAt (blockAddr p u (s.read rn) list r) = (afterWriteBack s u w rn list).regIn .usr r) ∧
      (∀ a, outsideBlock p u (s.read rn) list 16 a → t.mem.byte a = s.mem.byte a) ∧
      (∀ (m : Mode) (r : RegIdx), t.regIn m r = (afterWriteBack s u w rn list).regIn m r) ∧
      (∀ m : Mode, m.hasSpsr = true → t.spsrIn m = s.spsrIn m) ∧
      t.mode = s.mode ∧ t.cpsr = s.cpsr ∧ t.spsr = s.spsr ∧ t.ir = s.ir ∧ t.halted = s.halted ∧ t.err = s.err

/-- R269 for loads: the first transfer out of range, register `j`'s, halts the core with `AddressError`; the write-back and the
loads below `j` stay, `j` and the later registers are not loaded, and a switch to the User bank is not undone. -/
def Obligations.LoadBlockFails : Prop :=
  ∀ (c : Cond) (p u w : Bool) (rn : RegIdx) (list : BitVec 16) (j : RegIdx) (s : State), condPassed c.code s.cpsr = true →
    blockFailsAt s.mem p u (s.read rn) list j →
    let loaded (bank : Mode) (t : State) : Prop :=
      (∀ (m : Mode) (i : RegIdx), t.regIn m i =
        if listed list i ∧ i.toNat < j.toNat ∧ sameCell bank m i = true then s.mem.wordAt (blockAddr p u (s.read rn) list i)
        else (afterWriteBack s u w rn list).regIn m i) ∧
      t.mode = bank ∧ t.cpsr = s.cpsr ∧ t.mem = s.mem ∧ t.halted = true ∧
      t.err = some (.addressError (blockAddr p u (s.read rn) list j))
    (∃ t, exec (.ldm c p u w rn list) s = .next t ∧ loaded s.mode t) ∧
    (∃ t, exec (.ldmUser c p u w rn list) s = .next t ∧ loaded .usr t) ∧
    (s.mode.hasSpsr = true → (modeOf (s.spsr.extractLsb' 0 5)).isSome = true →
      ∃ t, exec (.ldmRet c p u w rn list) s = .next t ∧ loaded s.mode t)

/-- R269 for stores: the words below the first transfer out of range, register `j`'s, are stored and nothing else of memory
changes; the write-back stays; the core halts with `AddressError`, with the User bank left visible by STM_USER. -/
def Obligations.StoreBlockFails : Prop :=
  ∀ (c : Cond) (p u w : Bool) (rn : RegIdx) (list : BitVec 16) (j : RegIdx) (s : State), condPassed c.code s.cpsr = true →
    s.mem.wf = true → blockFailsAt s.mem p u (s.read rn) list j →
    let stored (bank : Mode) (t : State) : Prop :=
      (∀ r : RegIdx, listed list r = true → r.toNat < j.toNat →
        t.mem.wordAt (blockAddr p u (s.read rn) list r) = (afterWriteBack s u w rn list).regIn bank r) ∧
      (∀ a, outsideBlock p u (s.read rn) list j.toNat a → t.mem.byte a = s.mem.byte a) ∧
      (∀ (m : Mode) (r : RegIdx), t.regIn m r = (afterWriteBack s u w rn list).regIn m r) ∧
      t.mode = bank ∧ t.cpsr = s.cpsr ∧ t.halted = true ∧ t.err = some (.addressError (blockAddr p u (s.read rn) list j))
    (∃ t, exec (.stm c p u w rn list) s = .next t ∧ stored s.mode t) ∧
    (∃ t, exec (.stmSPc c p u w rn list) s = .next t ∧ stored s.mode t) ∧
    (∃ t, exec (.stmUser c p u w rn list) s = .next t ∧ stored .usr t)

/-! ## Status registers and CLZ -/

/-- R280: MRS copies all of CPSR, or of SPSR in a mode that has one; in User and System mode a read of SPSR raises `SpsrAccess`. -/
def Obligations.MrsResult : Prop :=
  ∀ (c : Cond) (rd : RegIdx) (s : State),
    exec (.mrs c .cpsr rd) s = .next (if condPassed c.code s.cpsr then
      { s with regs := s.regs.set rd.toNat s.cpsr rd.isLt } else s) ∧
    exec (.mrs c .spsr rd) s = .next (if condPassed c.code s.cpsr then
      (if s.mode = .usr ∨ s.mode = .sys then s.haltedBy (.spsrAccess s.mode)
       else { s with regs := s.regs.set rd.toNat s.spsr rd.isLt }) else s)

/-- R281 to R283 for SPSR: the selected bytes of SPSR take the operand's, the others stay, and nothing else changes; in User and
System mode `SpsrAccess`. -/
def Obligations.MsrSpsrResult : Prop :=
  ∀ (c : Cond) (mask rot : BitVec 4) (imm8 : BitVec 8) (rm : RegIdx) (i : Instr) (v : Word) (s : State),
    condPassed c.code s.cpsr = true →
    (i = .msrReg c .spsr mask rm ∧ v = s.read rm) ∨ (i = .msrImm c .spsr mask rot imm8 ∧ v = rotatedImm rot imm8) →
    (s.mode = .usr ∨ s.mode = .sys → exec i s = .next (s.haltedBy (.spsrAccess s.mode))) ∧
    (s.mode ≠ .usr ∧ s.mode ≠ .sys → ∃ t, exec i s = .next t ∧
      (∀ k, k < 32 → t.spsr.getLsbD k = if mask.getLsbD (k / 8) then v.getLsbD k else s.spsr.getLsbD k) ∧
      t = { s with spsr := t.spsr })

/-- R281 to R283, R285 for CPSR: a byte is written when the mask selects it, the low byte only outside User mode. When the new value
names no mode nothing changes but the halt with `InvalidMode`; otherwise CPSR takes it, `mode` is the one it names, and every
register cell, every mode's SPSR and memory keep their values. -/
def Obligations.MsrCpsrResult : Prop :=
  ∀ (c : Cond) (mask rot : BitVec 4) (imm8 : BitVec 8) (rm : RegIdx) (i : Instr) (v new : Word) (s : State),
    condPassed c.code s.cpsr = true →
    (i = .msrReg c .cpsr mask rm ∧ v = s.read rm) ∨ (i = .msrImm c .cpsr mask rot imm8 ∧ v = rotatedImm rot imm8) →
    (∀ k, k < 32 → new.getLsbD k =
      if mask.getLsbD (k / 8) = true ∧ (8 ≤ k ∨ s.mode ≠ .usr) then v.getLsbD k else s.cpsr.getLsbD k) →
    (modeOf (new.extractLsb' 0 5) = none → exec i s = .next (s.haltedBy (.invalidMode new))) ∧
    (∀ m, modeOf (new.extractLsb' 0 5) = some m → ∃ t, exec i s = .next t ∧ t.cpsr = new ∧ t.mode = m ∧
      (∀ (m' : Mode) (r : RegIdx), t.regIn m' r = s.regIn m' r) ∧
      (∀ m' : Mode, m'.hasSpsr = true → t.spsrIn m' = s.spsrIn m') ∧ (∀ a, t.mem.byte a = s.mem.byte a) ∧
      t.mem = s.mem ∧ t.ir = s.ir ∧ t.halted = s.halted ∧ t.err = s.err)

/-- R284: CLZ gives 32 for zero, else 31 less the index of the highest set bit; nothing but Rd changes. -/
def Obligations.ClzResult : Prop :=
  ∀ (c : Cond) (rd rm : RegIdx) (s : State),
    let v := s.read rm
    let n := if v = 0 then 32 else 31 - Nat.log2 v.toNat
    exec (.clz c rd rm) s = .next (if condPassed c.code s.cpsr then
      { s with regs := s.regs.set rd.toNat (BitVec.ofNat 32 n) rd.isLt } else s)

/-! ## The classes that are decoded and not executed -/

/-- R295: each of the fifteen stub classes halts the core with `Unimplemented` and its label, and changes nothing else. -/
def Obligations.StubClassesHalt : Prop :=
  ∀ (c : Cond) (i : Instr) (label : StubClass) (s : State), (i, label) ∈ stubsWithLabels c →
    exec i s = .next (if condPassed c.code s.cpsr then s.haltedBy (.unimplemented label) else s)

/-! ## The register bank -/

/-- The banked register file behaves as the physical cells of R37: whatever sequence of mode switches is made, every register of
every mode and every mode's SPSR read as before, and the switch touches nothing outside the bank (R133; R135 and R37, which the
spec marks as derived from it). -/
def Obligations.SwitchesKeepEveryView : Prop :=
  ∀ (ms : List Mode) (s : State),
    let t := ms.foldl State.switchMode s
    (∀ (m : Mode) (i : RegIdx), t.regIn m i = s.regIn m i) ∧
    (∀ m : Mode, m.hasSpsr = true → t.spsrIn m = s.spsrIn m) ∧
    t.mode = ms.getLastD s.mode ∧ t.cpsr = s.cpsr ∧ t.mem = s.mem ∧ t.ir = s.ir ∧ t.halted = s.halted ∧ t.err = s.err

/-- R134 and R137: a switch to the current mode changes nothing; a switch to User or System keeps the active SPSR, and a switch to
another mode that has one takes it from its slot. -/
def Obligations.SwitchModeSpsr : Prop :=
  ∀ s : State, s.switchMode s.mode = s ∧
    (∀ m : Mode, m.hasSpsr = false → (s.switchMode m).spsr = s.spsr) ∧
    (∀ m : Mode, m ≠ s.mode → m.hasSpsr = true → (s.switchMode m).spsr = s.storedSpsr m)

/-! ## Memory -/

/-- R63 to R65: a write of 1, 2 or 4 bytes puts bits 8k+7 to 8k at `a + k`, is read back with the bits above the width dropped, and
leaves every other byte alone; memory keeps its canonical form and its capacity. -/
def Obligations.WriteThenRead : Prop :=
  ∀ (m m' : Memory) (a : Word) (n : Width) (v : Word), m.wf = true → memWrite m a n v = .ok m' →
    memRead m' a n = .ok (BitVec.ofNat 32 (v.toNat % 2 ^ (8 * n.bytes))) ∧
    (∀ k, k < n.bytes → m'.byte (a.toNat + k) = v.extractLsb' (8 * k) 8) ∧
    (∀ x, x < a.toNat ∨ a.toNat + n.bytes ≤ x → m'.byte x = m.byte x) ∧ m'.wf = true ∧ m'.size = m.size

/-- R66: an access is in range exactly when `addr + n <= MEM_SIZE`, the sum not wrapped; otherwise it is `AddressError(addr)` and no
value is read and nothing written. -/
def Obligations.AccessBounds : Prop :=
  ∀ (m : Memory) (a : Word) (n : Width) (v : Word),
    (a.toNat + n.bytes ≤ m.size → (∃ r, memRead m a n = .ok r) ∧ ∃ m', memWrite m a n v = .ok m') ∧
    (m.size < a.toNat + n.bytes → memRead m a n = .error (.addressError a) ∧ memWrite m a n v = .error (.addressError a))

/-! ## Reset, construction and the driver -/

/-- R42, R350, R351, R353: the state after construction and after `reset()`, for every admissible `MEM_SIZE`, `RESET_PC` and
`RESET_CPSR`. -/
def Obligations.ResetValues : Prop :=
  ∀ (c : Config) (old s : State), c.valid = true → s = State.constructed c ∨ s = old.driverReset c →
    (∀ i : RegIdx, i ≠ 15 → s.read i = 0) ∧ s.pc = c.resetPc ∧ s.cpsr = c.resetCpsr ∧ s.spsr = 0 ∧
    modeOf (c.resetCpsr.extractLsb' 0 5) = some s.mode ∧ flagT s.cpsr = false ∧
    (∀ (m : Mode) (i : RegIdx), i ≠ 15 → s.regIn m i = 0) ∧
    (∀ k (h : k < 7), s.bankUsr[k] = 0 ∧ s.bankFiq[k] = 0) ∧
    (∀ k (h : k < 2), s.bankIrq[k] = 0 ∧ s.bankSvc[k] = 0 ∧ s.bankAbt[k] = 0 ∧ s.bankUnd[k] = 0) ∧
    (∀ m : Mode, s.storedSpsr m = 0) ∧ s.ir = 0 ∧ s.halted = false ∧ s.err = none ∧
    ((State.constructed c).mem.size = c.memSize ∧ ∀ a, (State.constructed c).mem.byte a = 0) ∧
    (old.driverReset c).mem = old.mem

/-- The invariant holds of the state after reset with the parameters the model chose (log 2, log 3), and that state can fetch. -/
def Obligations.ResetMeetsInv : Prop :=
  State.reset.Inv ∧ State.reset.Fetchable

/-- Every call a driver can make between steps keeps the invariant of the core, `step()` included; construction with admissible
parameters gives a core that has it, and any other parameters are refused (R350 to R358, R36; log 8, log 14, log 15). -/
def Obligations.DriverKeepsInv : Prop :=
  (∀ c : Config, c.valid = true → construct c = .next (.live c (State.constructed c)) ∧ (State.constructed c).Inv) ∧
  (∀ c : Config, c.valid = false → construct c = .refused .badConfig) ∧
  (∀ (call : DriverCall) (c c' : Config) (s t : State), c.valid = true → s.Inv →
    driverCall call (.live c s) = .next (.live c' t) → t.Inv ∧ c' = c)

/-! ## Rules of the whole machine -/

/-- Every step from a state with the invariant answers a next state, never a fault or a refusal, and that state has the invariant:
memory stays canonical, `mode` agrees with CPSR.M at the end of every step that does not end in a fatal error, and `err` holds an
error exactly when the core is halted (R36, R38, R320; a fatal error is the halted state, log 1). -/
def Obligations.StepKeepsInv : Prop :=
  ∀ s : State, s.Inv → ∃ t, step s = .next t ∧ t.Inv

/-- User mode cannot be left: a step from User mode ends in User mode with bits 7:6 and 4:0 of CPSR unchanged (R336, which the spec
marks as derived from R327, R332, R285 and R308). -/
def Obligations.UserModeCannotBeLeft : Prop :=
  ∀ s t : State, s.Inv → s.mode = .usr → step s = .next t → t.mode = .usr ∧ t.cpsr &&& 0xDF = s.cpsr &&& 0xDF

/-- User mode cannot change what it cannot see: a step from User mode leaves every private register and the SPSR of every other mode
as they were (R25, R34, R135, R285, R327). -/
def Obligations.UserModeIsolation : Prop :=
  ∀ s t : State, s.Inv → s.mode = .usr → step s = .next t →
    (∀ (m : Mode) (i : RegIdx), sameCell .usr m i = false → t.regIn m i = s.regIn m i) ∧
    (∀ m : Mode, m.hasSpsr = true → t.spsrIn m = s.spsrIn m)

/-- Only an MSR of the control byte outside User mode, a mode return and LDM_RET change the mode of a core that goes on (R336, which
the spec marks as derived). -/
def Obligations.OnlyReturnsAndMsrChangeMode : Prop :=
  ∀ (i : Instr) (s t : State), s.ModeAgrees → exec i s = .next t → t.halted = false → t.mode ≠ s.mode →
    (∃ c rn o, i ∈ dpWriters c true rn 15 o) ∨
    (∃ c mask rm, i = .msrReg c .cpsr mask rm ∧ mask.getLsbD 0 = true ∧ s.mode ≠ .usr) ∨
    (∃ c mask rot imm8, i = .msrImm c .cpsr mask rot imm8 ∧ mask.getLsbD 0 = true ∧ s.mode ≠ .usr) ∨
    (∃ c p u w rn list, i = .ldmRet c p u w rn list)

/-- Only the three store-multiple forms change memory, and no instruction changes the capacity of the device (R60, R61, R69). -/
def Obligations.OnlyStoresWriteMemory : Prop :=
  ∀ (i : Instr) (s t : State), exec i s = .next t →
    (isStore i = false → (∀ a, t.mem.byte a = s.mem.byte a) ∧ t.mem = s.mem) ∧ t.mem.size = s.mem.size

/-- Every fatal error but an `AddressError` inside a block transfer is precise: the instruction that raised it has changed nothing
(R320; R331, which the spec marks as derived). -/
def Obligations.ErrorsArePrecise : Prop :=
  ∀ (i : Instr) (s t : State), s.halted = false → exec i s = .next t → t.halted = true →
    ∃ f, t.err = some f ∧ (t = s.haltedBy f ∨ (isBlockTransfer i = true ∧ ∃ a, f = .addressError a))
end

