-- ==== Sys2Proof/Laws/State.lean ====
section
/-! SUPPORT. One lemma per field per update of `State`, true by unfolding, so that later proofs unfold no record update; the
register reads after each update. -/

namespace Sys2Proof.Machine

/-! ## `write` -/

@[simp] theorem State.write_regs (s : State) (i : RegIdx) (v : Word) : (s.write i v).regs = s.regs.set i.toNat v i.isLt := rfl
@[simp] theorem State.write_cpsr (s : State) (i : RegIdx) (v : Word) : (s.write i v).cpsr = s.cpsr := rfl
@[simp] theorem State.write_spsr (s : State) (i : RegIdx) (v : Word) : (s.write i v).spsr = s.spsr := rfl
@[simp] theorem State.write_mode (s : State) (i : RegIdx) (v : Word) : (s.write i v).mode = s.mode := rfl
@[simp] theorem State.write_bankUsr (s : State) (i : RegIdx) (v : Word) : (s.write i v).bankUsr = s.bankUsr := rfl
@[simp] theorem State.write_bankFiq (s : State) (i : RegIdx) (v : Word) : (s.write i v).bankFiq = s.bankFiq := rfl
@[simp] theorem State.write_bankIrq (s : State) (i : RegIdx) (v : Word) : (s.write i v).bankIrq = s.bankIrq := rfl
@[simp] theorem State.write_bankSvc (s : State) (i : RegIdx) (v : Word) : (s.write i v).bankSvc = s.bankSvc := rfl
@[simp] theorem State.write_bankAbt (s : State) (i : RegIdx) (v : Word) : (s.write i v).bankAbt = s.bankAbt := rfl
@[simp] theorem State.write_bankUnd (s : State) (i : RegIdx) (v : Word) : (s.write i v).bankUnd = s.bankUnd := rfl
@[simp] theorem State.write_spsrFiq (s : State) (i : RegIdx) (v : Word) : (s.write i v).spsrFiq = s.spsrFiq := rfl
@[simp] theorem State.write_spsrIrq (s : State) (i : RegIdx) (v : Word) : (s.write i v).spsrIrq = s.spsrIrq := rfl
@[simp] theorem State.write_spsrSvc (s : State) (i : RegIdx) (v : Word) : (s.write i v).spsrSvc = s.spsrSvc := rfl
@[simp] theorem State.write_spsrAbt (s : State) (i : RegIdx) (v : Word) : (s.write i v).spsrAbt = s.spsrAbt := rfl
@[simp] theorem State.write_spsrUnd (s : State) (i : RegIdx) (v : Word) : (s.write i v).spsrUnd = s.spsrUnd := rfl
@[simp] theorem State.write_ir (s : State) (i : RegIdx) (v : Word) : (s.write i v).ir = s.ir := rfl
@[simp] theorem State.write_halted (s : State) (i : RegIdx) (v : Word) : (s.write i v).halted = s.halted := rfl
@[simp] theorem State.write_err (s : State) (i : RegIdx) (v : Word) : (s.write i v).err = s.err := rfl
@[simp] theorem State.write_mem (s : State) (i : RegIdx) (v : Word) : (s.write i v).mem = s.mem := rfl

/-! ## `setPc` -/

@[simp] theorem State.setPc_regs (s : State) (v : Word) : (s.setPc v).regs = s.regs.set 15 v := rfl
@[simp] theorem State.setPc_cpsr (s : State) (v : Word) : (s.setPc v).cpsr = s.cpsr := rfl
@[simp] theorem State.setPc_spsr (s : State) (v : Word) : (s.setPc v).spsr = s.spsr := rfl
@[simp] theorem State.setPc_mode (s : State) (v : Word) : (s.setPc v).mode = s.mode := rfl
@[simp] theorem State.setPc_bankUsr (s : State) (v : Word) : (s.setPc v).bankUsr = s.bankUsr := rfl
@[simp] theorem State.setPc_bankFiq (s : State) (v : Word) : (s.setPc v).bankFiq = s.bankFiq := rfl
@[simp] theorem State.setPc_bankIrq (s : State) (v : Word) : (s.setPc v).bankIrq = s.bankIrq := rfl
@[simp] theorem State.setPc_bankSvc (s : State) (v : Word) : (s.setPc v).bankSvc = s.bankSvc := rfl
@[simp] theorem State.setPc_bankAbt (s : State) (v : Word) : (s.setPc v).bankAbt = s.bankAbt := rfl
@[simp] theorem State.setPc_bankUnd (s : State) (v : Word) : (s.setPc v).bankUnd = s.bankUnd := rfl
@[simp] theorem State.setPc_spsrFiq (s : State) (v : Word) : (s.setPc v).spsrFiq = s.spsrFiq := rfl
@[simp] theorem State.setPc_spsrIrq (s : State) (v : Word) : (s.setPc v).spsrIrq = s.spsrIrq := rfl
@[simp] theorem State.setPc_spsrSvc (s : State) (v : Word) : (s.setPc v).spsrSvc = s.spsrSvc := rfl
@[simp] theorem State.setPc_spsrAbt (s : State) (v : Word) : (s.setPc v).spsrAbt = s.spsrAbt := rfl
@[simp] theorem State.setPc_spsrUnd (s : State) (v : Word) : (s.setPc v).spsrUnd = s.spsrUnd := rfl
@[simp] theorem State.setPc_ir (s : State) (v : Word) : (s.setPc v).ir = s.ir := rfl
@[simp] theorem State.setPc_halted (s : State) (v : Word) : (s.setPc v).halted = s.halted := rfl
@[simp] theorem State.setPc_err (s : State) (v : Word) : (s.setPc v).err = s.err := rfl
@[simp] theorem State.setPc_mem (s : State) (v : Word) : (s.setPc v).mem = s.mem := rfl

/-! ## `setT` -/

@[simp] theorem State.setT_regs (s : State) (t : Bool) : (s.setT t).regs = s.regs := rfl
@[simp] theorem State.setT_cpsr (s : State) (t : Bool) : (s.setT t).cpsr = withT s.cpsr t := rfl
@[simp] theorem State.setT_spsr (s : State) (t : Bool) : (s.setT t).spsr = s.spsr := rfl
@[simp] theorem State.setT_mode (s : State) (t : Bool) : (s.setT t).mode = s.mode := rfl
@[simp] theorem State.setT_bankUsr (s : State) (t : Bool) : (s.setT t).bankUsr = s.bankUsr := rfl
@[simp] theorem State.setT_bankFiq (s : State) (t : Bool) : (s.setT t).bankFiq = s.bankFiq := rfl
@[simp] theorem State.setT_bankIrq (s : State) (t : Bool) : (s.setT t).bankIrq = s.bankIrq := rfl
@[simp] theorem State.setT_bankSvc (s : State) (t : Bool) : (s.setT t).bankSvc = s.bankSvc := rfl
@[simp] theorem State.setT_bankAbt (s : State) (t : Bool) : (s.setT t).bankAbt = s.bankAbt := rfl
@[simp] theorem State.setT_bankUnd (s : State) (t : Bool) : (s.setT t).bankUnd = s.bankUnd := rfl
@[simp] theorem State.setT_spsrFiq (s : State) (t : Bool) : (s.setT t).spsrFiq = s.spsrFiq := rfl
@[simp] theorem State.setT_spsrIrq (s : State) (t : Bool) : (s.setT t).spsrIrq = s.spsrIrq := rfl
@[simp] theorem State.setT_spsrSvc (s : State) (t : Bool) : (s.setT t).spsrSvc = s.spsrSvc := rfl
@[simp] theorem State.setT_spsrAbt (s : State) (t : Bool) : (s.setT t).spsrAbt = s.spsrAbt := rfl
@[simp] theorem State.setT_spsrUnd (s : State) (t : Bool) : (s.setT t).spsrUnd = s.spsrUnd := rfl
@[simp] theorem State.setT_ir (s : State) (t : Bool) : (s.setT t).ir = s.ir := rfl
@[simp] theorem State.setT_halted (s : State) (t : Bool) : (s.setT t).halted = s.halted := rfl
@[simp] theorem State.setT_err (s : State) (t : Bool) : (s.setT t).err = s.err := rfl
@[simp] theorem State.setT_mem (s : State) (t : Bool) : (s.setT t).mem = s.mem := rfl

/-! ## `setFlags` -/

@[simp] theorem State.setFlags_regs (s : State) (o : AluOut) : (s.setFlags o).regs = s.regs := rfl
@[simp] theorem State.setFlags_cpsr (s : State) (o : AluOut) : (s.setFlags o).cpsr = setNZCV s.cpsr o.r o.cf o.vf := rfl
@[simp] theorem State.setFlags_spsr (s : State) (o : AluOut) : (s.setFlags o).spsr = s.spsr := rfl
@[simp] theorem State.setFlags_mode (s : State) (o : AluOut) : (s.setFlags o).mode = s.mode := rfl
@[simp] theorem State.setFlags_bankUsr (s : State) (o : AluOut) : (s.setFlags o).bankUsr = s.bankUsr := rfl
@[simp] theorem State.setFlags_bankFiq (s : State) (o : AluOut) : (s.setFlags o).bankFiq = s.bankFiq := rfl
@[simp] theorem State.setFlags_bankIrq (s : State) (o : AluOut) : (s.setFlags o).bankIrq = s.bankIrq := rfl
@[simp] theorem State.setFlags_bankSvc (s : State) (o : AluOut) : (s.setFlags o).bankSvc = s.bankSvc := rfl
@[simp] theorem State.setFlags_bankAbt (s : State) (o : AluOut) : (s.setFlags o).bankAbt = s.bankAbt := rfl
@[simp] theorem State.setFlags_bankUnd (s : State) (o : AluOut) : (s.setFlags o).bankUnd = s.bankUnd := rfl
@[simp] theorem State.setFlags_spsrFiq (s : State) (o : AluOut) : (s.setFlags o).spsrFiq = s.spsrFiq := rfl
@[simp] theorem State.setFlags_spsrIrq (s : State) (o : AluOut) : (s.setFlags o).spsrIrq = s.spsrIrq := rfl
@[simp] theorem State.setFlags_spsrSvc (s : State) (o : AluOut) : (s.setFlags o).spsrSvc = s.spsrSvc := rfl
@[simp] theorem State.setFlags_spsrAbt (s : State) (o : AluOut) : (s.setFlags o).spsrAbt = s.spsrAbt := rfl
@[simp] theorem State.setFlags_spsrUnd (s : State) (o : AluOut) : (s.setFlags o).spsrUnd = s.spsrUnd := rfl
@[simp] theorem State.setFlags_ir (s : State) (o : AluOut) : (s.setFlags o).ir = s.ir := rfl
@[simp] theorem State.setFlags_halted (s : State) (o : AluOut) : (s.setFlags o).halted = s.halted := rfl
@[simp] theorem State.setFlags_err (s : State) (o : AluOut) : (s.setFlags o).err = s.err := rfl
@[simp] theorem State.setFlags_mem (s : State) (o : AluOut) : (s.setFlags o).mem = s.mem := rfl

/-! ## `raise` -/

@[simp] theorem State.raise_regs (s : State) (f : Fault) : (s.raise f).regs = s.regs := rfl
@[simp] theorem State.raise_cpsr (s : State) (f : Fault) : (s.raise f).cpsr = s.cpsr := rfl
@[simp] theorem State.raise_spsr (s : State) (f : Fault) : (s.raise f).spsr = s.spsr := rfl
@[simp] theorem State.raise_mode (s : State) (f : Fault) : (s.raise f).mode = s.mode := rfl
@[simp] theorem State.raise_bankUsr (s : State) (f : Fault) : (s.raise f).bankUsr = s.bankUsr := rfl
@[simp] theorem State.raise_bankFiq (s : State) (f : Fault) : (s.raise f).bankFiq = s.bankFiq := rfl
@[simp] theorem State.raise_bankIrq (s : State) (f : Fault) : (s.raise f).bankIrq = s.bankIrq := rfl
@[simp] theorem State.raise_bankSvc (s : State) (f : Fault) : (s.raise f).bankSvc = s.bankSvc := rfl
@[simp] theorem State.raise_bankAbt (s : State) (f : Fault) : (s.raise f).bankAbt = s.bankAbt := rfl
@[simp] theorem State.raise_bankUnd (s : State) (f : Fault) : (s.raise f).bankUnd = s.bankUnd := rfl
@[simp] theorem State.raise_spsrFiq (s : State) (f : Fault) : (s.raise f).spsrFiq = s.spsrFiq := rfl
@[simp] theorem State.raise_spsrIrq (s : State) (f : Fault) : (s.raise f).spsrIrq = s.spsrIrq := rfl
@[simp] theorem State.raise_spsrSvc (s : State) (f : Fault) : (s.raise f).spsrSvc = s.spsrSvc := rfl
@[simp] theorem State.raise_spsrAbt (s : State) (f : Fault) : (s.raise f).spsrAbt = s.spsrAbt := rfl
@[simp] theorem State.raise_spsrUnd (s : State) (f : Fault) : (s.raise f).spsrUnd = s.spsrUnd := rfl
@[simp] theorem State.raise_ir (s : State) (f : Fault) : (s.raise f).ir = s.ir := rfl
@[simp] theorem State.raise_halted (s : State) (f : Fault) : (s.raise f).halted = true := rfl
@[simp] theorem State.raise_err (s : State) (f : Fault) : (s.raise f).err = some f := rfl
@[simp] theorem State.raise_mem (s : State) (f : Fault) : (s.raise f).mem = s.mem := rfl

/-! ## `branchBy` -/

@[simp] theorem State.branchBy_regs (s : State) (off : Word) : (s.branchBy off).regs = s.regs.set 15 (s.pc + 4 + off) := rfl
@[simp] theorem State.branchBy_cpsr (s : State) (off : Word) : (s.branchBy off).cpsr = s.cpsr := rfl
@[simp] theorem State.branchBy_spsr (s : State) (off : Word) : (s.branchBy off).spsr = s.spsr := rfl
@[simp] theorem State.branchBy_mode (s : State) (off : Word) : (s.branchBy off).mode = s.mode := rfl
@[simp] theorem State.branchBy_bankUsr (s : State) (off : Word) : (s.branchBy off).bankUsr = s.bankUsr := rfl
@[simp] theorem State.branchBy_bankFiq (s : State) (off : Word) : (s.branchBy off).bankFiq = s.bankFiq := rfl
@[simp] theorem State.branchBy_bankIrq (s : State) (off : Word) : (s.branchBy off).bankIrq = s.bankIrq := rfl
@[simp] theorem State.branchBy_bankSvc (s : State) (off : Word) : (s.branchBy off).bankSvc = s.bankSvc := rfl
@[simp] theorem State.branchBy_bankAbt (s : State) (off : Word) : (s.branchBy off).bankAbt = s.bankAbt := rfl
@[simp] theorem State.branchBy_bankUnd (s : State) (off : Word) : (s.branchBy off).bankUnd = s.bankUnd := rfl
@[simp] theorem State.branchBy_spsrFiq (s : State) (off : Word) : (s.branchBy off).spsrFiq = s.spsrFiq := rfl
@[simp] theorem State.branchBy_spsrIrq (s : State) (off : Word) : (s.branchBy off).spsrIrq = s.spsrIrq := rfl
@[simp] theorem State.branchBy_spsrSvc (s : State) (off : Word) : (s.branchBy off).spsrSvc = s.spsrSvc := rfl
@[simp] theorem State.branchBy_spsrAbt (s : State) (off : Word) : (s.branchBy off).spsrAbt = s.spsrAbt := rfl
@[simp] theorem State.branchBy_spsrUnd (s : State) (off : Word) : (s.branchBy off).spsrUnd = s.spsrUnd := rfl
@[simp] theorem State.branchBy_ir (s : State) (off : Word) : (s.branchBy off).ir = s.ir := rfl
@[simp] theorem State.branchBy_halted (s : State) (off : Word) : (s.branchBy off).halted = s.halted := rfl
@[simp] theorem State.branchBy_err (s : State) (off : Word) : (s.branchBy off).err = s.err := rfl
@[simp] theorem State.branchBy_mem (s : State) (off : Word) : (s.branchBy off).mem = s.mem := rfl

/-! ## `exchangeTo` -/

@[simp] theorem State.exchangeTo_regs (s : State) (v : Word) : (s.exchangeTo v).regs = s.regs.set 15 (v &&& 0xFFFFFFFE) := rfl
@[simp] theorem State.exchangeTo_cpsr (s : State) (v : Word) : (s.exchangeTo v).cpsr = withT s.cpsr (v.getLsbD 0) := rfl
@[simp] theorem State.exchangeTo_spsr (s : State) (v : Word) : (s.exchangeTo v).spsr = s.spsr := rfl
@[simp] theorem State.exchangeTo_mode (s : State) (v : Word) : (s.exchangeTo v).mode = s.mode := rfl
@[simp] theorem State.exchangeTo_bankUsr (s : State) (v : Word) : (s.exchangeTo v).bankUsr = s.bankUsr := rfl
@[simp] theorem State.exchangeTo_bankFiq (s : State) (v : Word) : (s.exchangeTo v).bankFiq = s.bankFiq := rfl
@[simp] theorem State.exchangeTo_bankIrq (s : State) (v : Word) : (s.exchangeTo v).bankIrq = s.bankIrq := rfl
@[simp] theorem State.exchangeTo_bankSvc (s : State) (v : Word) : (s.exchangeTo v).bankSvc = s.bankSvc := rfl
@[simp] theorem State.exchangeTo_bankAbt (s : State) (v : Word) : (s.exchangeTo v).bankAbt = s.bankAbt := rfl
@[simp] theorem State.exchangeTo_bankUnd (s : State) (v : Word) : (s.exchangeTo v).bankUnd = s.bankUnd := rfl
@[simp] theorem State.exchangeTo_spsrFiq (s : State) (v : Word) : (s.exchangeTo v).spsrFiq = s.spsrFiq := rfl
@[simp] theorem State.exchangeTo_spsrIrq (s : State) (v : Word) : (s.exchangeTo v).spsrIrq = s.spsrIrq := rfl
@[simp] theorem State.exchangeTo_spsrSvc (s : State) (v : Word) : (s.exchangeTo v).spsrSvc = s.spsrSvc := rfl
@[simp] theorem State.exchangeTo_spsrAbt (s : State) (v : Word) : (s.exchangeTo v).spsrAbt = s.spsrAbt := rfl
@[simp] theorem State.exchangeTo_spsrUnd (s : State) (v : Word) : (s.exchangeTo v).spsrUnd = s.spsrUnd := rfl
@[simp] theorem State.exchangeTo_ir (s : State) (v : Word) : (s.exchangeTo v).ir = s.ir := rfl
@[simp] theorem State.exchangeTo_halted (s : State) (v : Word) : (s.exchangeTo v).halted = s.halted := rfl
@[simp] theorem State.exchangeTo_err (s : State) (v : Word) : (s.exchangeTo v).err = s.err := rfl
@[simp] theorem State.exchangeTo_mem (s : State) (v : Word) : (s.exchangeTo v).mem = s.mem := rfl

/-! ## `afterFetch` -/

@[simp] theorem State.afterFetch_regs (s : State) (w : Word) (width : Width) : (s.afterFetch w width).regs = s.regs.set 15 (s.pc + BitVec.ofNat 32 width.bytes) := rfl
@[simp] theorem State.afterFetch_cpsr (s : State) (w : Word) (width : Width) : (s.afterFetch w width).cpsr = s.cpsr := rfl
@[simp] theorem State.afterFetch_spsr (s : State) (w : Word) (width : Width) : (s.afterFetch w width).spsr = s.spsr := rfl
@[simp] theorem State.afterFetch_mode (s : State) (w : Word) (width : Width) : (s.afterFetch w width).mode = s.mode := rfl
@[simp] theorem State.afterFetch_bankUsr (s : State) (w : Word) (width : Width) : (s.afterFetch w width).bankUsr = s.bankUsr := rfl
@[simp] theorem State.afterFetch_bankFiq (s : State) (w : Word) (width : Width) : (s.afterFetch w width).bankFiq = s.bankFiq := rfl
@[simp] theorem State.afterFetch_bankIrq (s : State) (w : Word) (width : Width) : (s.afterFetch w width).bankIrq = s.bankIrq := rfl
@[simp] theorem State.afterFetch_bankSvc (s : State) (w : Word) (width : Width) : (s.afterFetch w width).bankSvc = s.bankSvc := rfl
@[simp] theorem State.afterFetch_bankAbt (s : State) (w : Word) (width : Width) : (s.afterFetch w width).bankAbt = s.bankAbt := rfl
@[simp] theorem State.afterFetch_bankUnd (s : State) (w : Word) (width : Width) : (s.afterFetch w width).bankUnd = s.bankUnd := rfl
@[simp] theorem State.afterFetch_spsrFiq (s : State) (w : Word) (width : Width) : (s.afterFetch w width).spsrFiq = s.spsrFiq := rfl
@[simp] theorem State.afterFetch_spsrIrq (s : State) (w : Word) (width : Width) : (s.afterFetch w width).spsrIrq = s.spsrIrq := rfl
@[simp] theorem State.afterFetch_spsrSvc (s : State) (w : Word) (width : Width) : (s.afterFetch w width).spsrSvc = s.spsrSvc := rfl
@[simp] theorem State.afterFetch_spsrAbt (s : State) (w : Word) (width : Width) : (s.afterFetch w width).spsrAbt = s.spsrAbt := rfl
@[simp] theorem State.afterFetch_spsrUnd (s : State) (w : Word) (width : Width) : (s.afterFetch w width).spsrUnd = s.spsrUnd := rfl
@[simp] theorem State.afterFetch_ir (s : State) (w : Word) (width : Width) : (s.afterFetch w width).ir = w := rfl
@[simp] theorem State.afterFetch_halted (s : State) (w : Word) (width : Width) : (s.afterFetch w width).halted = s.halted := rfl
@[simp] theorem State.afterFetch_err (s : State) (w : Word) (width : Width) : (s.afterFetch w width).err = s.err := rfl
@[simp] theorem State.afterFetch_mem (s : State) (w : Word) (width : Width) : (s.afterFetch w width).mem = s.mem := rfl

/-! ## `loadBank` -/

@[simp] theorem State.loadBank_regs (s : State) (m : Mode) : (s.loadBank m).regs = withHigh s.regs (s.storedHigh m) := rfl
@[simp] theorem State.loadBank_cpsr (s : State) (m : Mode) : (s.loadBank m).cpsr = s.cpsr := rfl
@[simp] theorem State.loadBank_spsr (s : State) (m : Mode) : (s.loadBank m).spsr = s.storedSpsr m := rfl
@[simp] theorem State.loadBank_mode (s : State) (m : Mode) : (s.loadBank m).mode = m := rfl
@[simp] theorem State.loadBank_bankUsr (s : State) (m : Mode) : (s.loadBank m).bankUsr = s.bankUsr := rfl
@[simp] theorem State.loadBank_bankFiq (s : State) (m : Mode) : (s.loadBank m).bankFiq = s.bankFiq := rfl
@[simp] theorem State.loadBank_bankIrq (s : State) (m : Mode) : (s.loadBank m).bankIrq = s.bankIrq := rfl
@[simp] theorem State.loadBank_bankSvc (s : State) (m : Mode) : (s.loadBank m).bankSvc = s.bankSvc := rfl
@[simp] theorem State.loadBank_bankAbt (s : State) (m : Mode) : (s.loadBank m).bankAbt = s.bankAbt := rfl
@[simp] theorem State.loadBank_bankUnd (s : State) (m : Mode) : (s.loadBank m).bankUnd = s.bankUnd := rfl
@[simp] theorem State.loadBank_spsrFiq (s : State) (m : Mode) : (s.loadBank m).spsrFiq = s.spsrFiq := rfl
@[simp] theorem State.loadBank_spsrIrq (s : State) (m : Mode) : (s.loadBank m).spsrIrq = s.spsrIrq := rfl
@[simp] theorem State.loadBank_spsrSvc (s : State) (m : Mode) : (s.loadBank m).spsrSvc = s.spsrSvc := rfl
@[simp] theorem State.loadBank_spsrAbt (s : State) (m : Mode) : (s.loadBank m).spsrAbt = s.spsrAbt := rfl
@[simp] theorem State.loadBank_spsrUnd (s : State) (m : Mode) : (s.loadBank m).spsrUnd = s.spsrUnd := rfl
@[simp] theorem State.loadBank_ir (s : State) (m : Mode) : (s.loadBank m).ir = s.ir := rfl
@[simp] theorem State.loadBank_halted (s : State) (m : Mode) : (s.loadBank m).halted = s.halted := rfl
@[simp] theorem State.loadBank_err (s : State) (m : Mode) : (s.loadBank m).err = s.err := rfl
@[simp] theorem State.loadBank_mem (s : State) (m : Mode) : (s.loadBank m).mem = s.mem := rfl

/-! ## Reads -/

theorem State.read_write (s : State) (i j : RegIdx) (v : Word) :
    (s.write i v).read j = if i = j then v else s.read j := by
  simp only [State.read, State.write, Vector.getElem_set, BitVec.toNat_inj]

@[simp] theorem State.read_write_self (s : State) (i : RegIdx) (v : Word) : (s.write i v).read i = v := by
  simp [State.read_write]

@[simp] theorem State.read_write_ne (s : State) {i j : RegIdx} (v : Word) (h : i ≠ j) : (s.write i v).read j = s.read j := by
  simp [State.read_write, h]

@[simp] theorem State.pc_setPc (s : State) (v : Word) : (s.setPc v).pc = v := State.read_write_self s pcIdx v

@[simp] theorem State.read_setPc_ne (s : State) {j : RegIdx} (v : Word) (h : pcIdx ≠ j) : (s.setPc v).read j = s.read j :=
  State.read_write_ne s v h

@[simp] theorem State.read_setT (s : State) (t : Bool) (i : RegIdx) : (s.setT t).read i = s.read i := rfl

@[simp] theorem State.read_setFlags (s : State) (o : AluOut) (i : RegIdx) : (s.setFlags o).read i = s.read i := rfl

@[simp] theorem State.read_raise (s : State) (f : Fault) (i : RegIdx) : (s.raise f).read i = s.read i := rfl

@[simp] theorem State.pc_afterFetch (s : State) (w : Word) (width : Width) :
    (s.afterFetch w width).pc = s.pc + BitVec.ofNat 32 width.bytes := State.pc_setPc _ _

/-- A register file is known from its sixteen reads. -/
theorem State.regs_ext {s t : State} (h : ∀ i : RegIdx, s.read i = t.read i) : s.regs = t.regs := by
  apply Vector.ext
  intro i hi
  have := h (BitVec.ofNat 4 i)
  simpa [State.read, Nat.mod_eq_of_lt hi] using this

end Sys2Proof.Machine
end

