-- ==== Sys2Proof/Laws/Bank.lean ====
section
/-! SUPPORT. What a mode switch does, said once: it changes the active view and bank storage only, and every register of every mode
keeps its value (`40_register_bank.md` R133, R135). -/

namespace Sys2Proof.Machine

/-- `switchMode` by cases: nothing for the current mode, else save then load (R133, R134). -/
theorem State.switchMode_cases (s : State) (m : Mode) :
    (m = s.mode ∧ s.switchMode m = s) ∨ (m ≠ s.mode ∧ s.switchMode m = s.saveBank.loadBank m) := by
  unfold State.switchMode
  split
  · next h => exact .inl ⟨h, rfl⟩
  · next h => exact .inr ⟨h, rfl⟩

/-! ## Saving the outgoing view -/

/-- Saving writes bank storage and nothing else. -/
theorem State.saveBank_frame (s : State) :
    s.saveBank.regs = s.regs ∧ s.saveBank.cpsr = s.cpsr ∧ s.saveBank.spsr = s.spsr ∧ s.saveBank.mode = s.mode ∧
    s.saveBank.ir = s.ir ∧ s.saveBank.halted = s.halted ∧ s.saveBank.err = s.err ∧ s.saveBank.mem = s.mem := by
  unfold State.saveBank
  split <;> exact ⟨rfl, rfl, rfl, rfl, rfl, rfl, rfl, rfl⟩

@[simp] theorem State.saveBank_regs (s : State) : s.saveBank.regs = s.regs := s.saveBank_frame.1
@[simp] theorem State.saveBank_cpsr (s : State) : s.saveBank.cpsr = s.cpsr := s.saveBank_frame.2.1
@[simp] theorem State.saveBank_spsr (s : State) : s.saveBank.spsr = s.spsr := s.saveBank_frame.2.2.1
@[simp] theorem State.saveBank_mode (s : State) : s.saveBank.mode = s.mode := s.saveBank_frame.2.2.2.1
@[simp] theorem State.saveBank_ir (s : State) : s.saveBank.ir = s.ir := s.saveBank_frame.2.2.2.2.1
@[simp] theorem State.saveBank_halted (s : State) : s.saveBank.halted = s.halted := s.saveBank_frame.2.2.2.2.2.1
@[simp] theorem State.saveBank_err (s : State) : s.saveBank.err = s.err := s.saveBank_frame.2.2.2.2.2.2.1
@[simp] theorem State.saveBank_mem (s : State) : s.saveBank.mem = s.mem := s.saveBank_frame.2.2.2.2.2.2.2

/-! ## Fields a switch leaves alone -/

@[simp] theorem State.switchMode_cpsr (s : State) (m : Mode) : (s.switchMode m).cpsr = s.cpsr := by
  rcases s.switchMode_cases m with ⟨-, h⟩ | ⟨-, h⟩ <;> simp [h]
@[simp] theorem State.switchMode_ir (s : State) (m : Mode) : (s.switchMode m).ir = s.ir := by
  rcases s.switchMode_cases m with ⟨-, h⟩ | ⟨-, h⟩ <;> simp [h]
@[simp] theorem State.switchMode_halted (s : State) (m : Mode) : (s.switchMode m).halted = s.halted := by
  rcases s.switchMode_cases m with ⟨-, h⟩ | ⟨-, h⟩ <;> simp [h]
@[simp] theorem State.switchMode_err (s : State) (m : Mode) : (s.switchMode m).err = s.err := by
  rcases s.switchMode_cases m with ⟨-, h⟩ | ⟨-, h⟩ <;> simp [h]
@[simp] theorem State.switchMode_mem (s : State) (m : Mode) : (s.switchMode m).mem = s.mem := by
  rcases s.switchMode_cases m with ⟨-, h⟩ | ⟨-, h⟩ <;> simp [h]
@[simp] theorem State.switchMode_mode (s : State) (m : Mode) : (s.switchMode m).mode = m := by
  rcases s.switchMode_cases m with ⟨e, h⟩ | ⟨-, h⟩
  · rw [h, e]
  · rw [h, State.loadBank_mode]

/-! ## The logical view -/

/-- Register numbers of the banked part of the file. -/
theorem regIdx_cases (i : RegIdx) :
    (i.toNat < 8 ∨ i = 15) ∨ i = 8 ∨ i = 9 ∨ i = 10 ∨ i = 11 ∨ i = 12 ∨ i = 13 ∨ i = 14 := by
  revert i; decide

theorem sameCell_shared {i : RegIdx} (h : i.toNat < 8 ∨ i = 15) (m m' : Mode) : sameCell m m' i = true := by
  rcases h with h | rfl
  · simp [sameCell, h]
  · rfl

theorem sameCell_self (m : Mode) (i : RegIdx) : sameCell m m i = true := by
  simp [sameCell]

/-- In the current mode the view is the active file. -/
@[simp] theorem State.regIn_self (s : State) (i : RegIdx) : s.regIn s.mode i = s.read i := by
  simp [State.regIn, sameCell_self]

/-- A register every mode shares is read from the active file. -/
theorem State.regIn_shared (s : State) (m : Mode) {i : RegIdx} (h : i.toNat < 8 ∨ i = 15) : s.regIn m i = s.read i := by
  simp [State.regIn, sameCell_shared h]

/-- Two modes that name one cell see one value. -/
theorem State.storedHigh_congr (s : State) (m m' : Mode) (i : RegIdx) (hi : 8 ≤ i.toNat ∧ i.toNat < 15)
    (h : sameCell m m' i = true) :
    (s.storedHigh m)[i.toNat - 8]?.getD 0 = (s.storedHigh m')[i.toNat - 8]?.getD 0 := by
  rcases regIdx_cases i with h' | rfl | rfl | rfl | rfl | rfl | rfl | rfl
  · rcases h' with h' | rfl
    · omega
    · simp at hi
  all_goals cases m <;> cases m' <;> first | rfl | exact absurd h (by decide)

/-- After saving, storage holds every mode's view of the banked registers. -/
theorem State.saveBank_stored (s : State) (m : Mode) (i : RegIdx) (hi : 8 ≤ i.toNat ∧ i.toNat < 15) :
    (s.saveBank.storedHigh m)[i.toNat - 8]?.getD 0 = s.regIn m i := by
  obtain ⟨regs, cpsr, spsr, mode, _⟩ := s
  rcases regIdx_cases i with h' | rfl | rfl | rfl | rfl | rfl | rfl | rfl
  · rcases h' with h' | rfl
    · omega
    · simp at hi
  all_goals cases mode <;> cases m <;> rfl

/-- Loading changes no view whose cell the outgoing mode has saved: what a mode sees afterwards is what storage held. -/
theorem State.loadBank_regIn (s : State) (m m' : Mode) (i : RegIdx) (hi : 8 ≤ i.toNat ∧ i.toNat < 15) :
    (s.loadBank m).regIn m' i = (s.storedHigh m')[i.toNat - 8]?.getD 0 := by
  unfold State.regIn
  rw [State.loadBank_mode]
  split
  · next h =>
    rw [State.storedHigh_congr s m' m i hi h]
    rcases regIdx_cases i with h' | rfl | rfl | rfl | rfl | rfl | rfl | rfl
    · rcases h' with h' | rfl
      · omega
      · simp at hi
    all_goals simp [State.read, withHigh]
  · cases m' <;> rfl

/-- A mode switch keeps every register of every mode (R135). -/
theorem State.regIn_switchMode (s : State) (m m' : Mode) (i : RegIdx) : (s.switchMode m).regIn m' i = s.regIn m' i := by
  rcases s.switchMode_cases m with ⟨-, h⟩ | ⟨-, h⟩
  · rw [h]
  · rw [h]
    by_cases hi : 8 ≤ i.toNat ∧ i.toNat < 15
    · rw [State.loadBank_regIn _ _ _ _ hi, State.saveBank_stored _ _ _ hi]
    · have hs : i.toNat < 8 ∨ i = 15 := by
        rcases regIdx_cases i with h' | rfl | rfl | rfl | rfl | rfl | rfl | rfl
        · exact h'
        all_goals exact absurd (by decide) hi
      rw [State.regIn_shared _ _ hs, State.regIn_shared _ _ hs]
      rcases regIdx_cases i with h' | rfl | rfl | rfl | rfl | rfl | rfl | rfl
      · rcases h' with h' | rfl
        · have : i.toNat = 0 ∨ i.toNat = 1 ∨ i.toNat = 2 ∨ i.toNat = 3 ∨ i.toNat = 4 ∨ i.toNat = 5 ∨ i.toNat = 6 ∨
              i.toNat = 7 := by omega
          rcases this with e | e | e | e | e | e | e | e <;> simp [State.read, withHigh, e]
        · simp [State.read, withHigh]
      all_goals exact absurd (by decide) hi

/-- A mode switch keeps every mode's SPSR (R34, R133). -/
theorem State.spsrIn_switchMode (s : State) (m m' : Mode) (hm : m'.hasSpsr = true) :
    (s.switchMode m).spsrIn m' = s.spsrIn m' := by
  obtain ⟨regs, cpsr, spsr, mode, _⟩ := s
  cases mode <;> cases m <;> cases m' <;> first | rfl | exact absurd hm (by decide)

/-- A switch to a mode without an SPSR keeps the active one (R137). -/
theorem State.switchMode_spsr_of_none (s : State) {m : Mode} (hm : m.hasSpsr = false) : (s.switchMode m).spsr = s.spsr := by
  rcases s.switchMode_cases m with ⟨-, h⟩ | ⟨-, h⟩
  · rw [h]
  · rw [h, State.loadBank_spsr]
    cases m <;> first | exact s.saveBank_spsr | exact absurd hm (by decide)

/-- The registers a switch shows are the incoming mode's (R133). -/
theorem State.read_switchMode (s : State) (m : Mode) (i : RegIdx) : (s.switchMode m).read i = s.regIn m i := by
  have h := s.regIn_switchMode m m i
  rw [← h]
  have h' := (s.switchMode m).regIn_self i
  rw [s.switchMode_mode m] at h'
  exact h'.symm

/-- A state that differs from another in the active registers, CPSR, SPSR, `IR`, the halt, the error and memory only: the views of
its own cells are its active registers, the others are those of the first state. -/
theorem State.regIn_of_active (s : State) (regs : Vector Word 16) (cpsr spsr ir : Word) (halted : Bool) (err : Option Fault)
    (mem : Memory) (m : Mode) (i : RegIdx) :
    ({ s with regs := regs, cpsr := cpsr, spsr := spsr, ir := ir, halted := halted, err := err, mem := mem } : State).regIn m i =
      if sameCell m s.mode i then regs[i.toNat]'(i.isLt) else s.regIn m i := by
  unfold State.regIn
  by_cases h : sameCell m s.mode i = true
  · rw [if_pos h, if_pos h]; rfl
  · rw [if_neg h, if_neg h, if_neg h]
    cases m <;> rfl

theorem sameCell_comm (m m' : Mode) (i : RegIdx) : sameCell m m' i = sameCell m' m i := by
  unfold sameCell
  split
  · rfl
  · split <;> exact Bool.beq_comm ..

end Sys2Proof.Machine
end

