-- ==== Sys2Proof/Laws/Memory.lean ====
section
/-! SUPPORT. The laws of memory: a write is read back, leaves every other byte alone, and keeps the canonical form. -/

namespace Sys2Proof.Machine

/-- No cell of a canonical list lies below its lower bound, so every address there reads as 0x00. -/
theorem cellsRead_below {size lo x : Nat} {l : List Host.Cell} (h : cellsWf size lo l = true) (hx : x < lo) :
    cellsRead l x = 0 := by
  induction l generalizing lo with
  | nil => rfl
  | cons c rest ih =>
    obtain ⟨k, v⟩ := c
    simp only [cellsWf, Bool.and_eq_true, decide_eq_true_eq] at h
    simp only [cellsRead]
    rw [if_neg (by omega)]
    exact ih h.2 (by omega)

theorem cellsWf_mono {size lo lo' : Nat} {l : List Host.Cell} (h : cellsWf size lo l = true) (hl : lo' ≤ lo) :
    cellsWf size lo' l = true := by
  cases l with
  | nil => rfl
  | cons c rest =>
    obtain ⟨k, v⟩ := c
    simp only [cellsWf, Bool.and_eq_true, decide_eq_true_eq] at h ⊢
    exact ⟨⟨⟨by omega, h.1.1.2⟩, h.1.2⟩, h.2⟩

theorem cellsRead_cellsWrite {size lo : Nat} {l : List Host.Cell} (h : cellsWf size lo l = true) (a x : Nat) (b : Byte) :
    cellsRead (cellsWrite l a b) x = if a = x then b else cellsRead l x := by
  induction l generalizing lo with
  | nil =>
    simp only [cellsWrite]
    split
    · next hb => simp [cellsRead, hb]
    · rfl
  | cons c rest ih =>
    obtain ⟨k, v⟩ := c
    simp only [cellsWf, Bool.and_eq_true, decide_eq_true_eq] at h
    have below : ∀ y, y ≤ k → cellsRead rest y = 0 := fun y hy => cellsRead_below h.2 (by omega)
    simp only [cellsWrite]
    split
    · split
      · simp only [cellsRead]
        split
        · next hx => subst hx; rw [if_neg (by omega)]
        · split
          · next hx => subst hx; rw [below _ (by omega)]; simp_all
          · rfl
      · simp [cellsRead]
    · split
      · next hk =>
        subst hk
        split
        · simp only [cellsRead]
          split
          · next hx => subst hx; rw [below _ (by omega)]; simp_all
          · rfl
        · simp only [cellsRead]
          split <;> rfl
      · simp only [cellsRead, ih h.2]
        split
        · next hx => subst hx; rw [if_neg (by omega)]
        · rfl

theorem cellsWf_cellsWrite {size lo : Nat} {l : List Host.Cell} (h : cellsWf size lo l = true) {a : Nat} (b : Byte)
    (hlo : lo ≤ a) (ha : a < size) : cellsWf size lo (cellsWrite l a b) = true := by
  induction l generalizing lo with
  | nil =>
    simp only [cellsWrite]
    split
    · rfl
    · next hb => simpa [cellsWf, hlo, ha] using hb
  | cons c rest ih =>
    obtain ⟨k, v⟩ := c
    have h0 := h
    simp only [cellsWf, Bool.and_eq_true, decide_eq_true_eq] at h
    simp only [cellsWrite]
    split
    · split
      · exact h0
      · next hb =>
        simp only [cellsWf, Bool.and_eq_true, decide_eq_true_eq]
        refine ⟨⟨⟨hlo, ha⟩, by simpa using hb⟩, ⟨⟨by omega, h.1.1.2⟩, h.1.2⟩, h.2⟩
    · split
      · next hk =>
        subst hk
        split
        · exact cellsWf_mono h.2 (by omega)
        · next hb =>
          simp only [cellsWf, Bool.and_eq_true, decide_eq_true_eq]
          exact ⟨⟨⟨hlo, ha⟩, by simpa using hb⟩, h.2⟩
      · simp only [cellsWf, Bool.and_eq_true, decide_eq_true_eq]
        exact ⟨h.1, ih h.2 (by omega)⟩

/-! ## The memory device -/

@[simp] theorem Memory.size_setByte (m : Memory) (a : Nat) (b : Byte) : (m.setByte a b).size = m.size := rfl

theorem Memory.wf_setByte {m : Memory} (h : m.wf = true) {a : Nat} (b : Byte) (ha : a < m.size) :
    (m.setByte a b).wf = true := cellsWf_cellsWrite h b (Nat.zero_le _) ha

theorem Memory.byte_setByte {m : Memory} (h : m.wf = true) (a x : Nat) (b : Byte) :
    (m.setByte a b).byte x = if a = x then b else m.byte x := cellsRead_cellsWrite h a x b

@[simp] theorem Memory.size_setBytes (m : Memory) (a : Nat) (v : Word) (n : Nat) : (m.setBytes a v n).size = m.size := by
  induction n generalizing m a v with
  | zero => rfl
  | succ n ih => simp [Memory.setBytes, ih]

theorem Memory.wf_setBytes {m : Memory} (h : m.wf = true) {a : Nat} (v : Word) {n : Nat} (ha : a + n ≤ m.size) :
    (m.setBytes a v n).wf = true := by
  induction n generalizing m a v with
  | zero => exact h
  | succ n ih => exact ih (Memory.wf_setByte h _ (by omega)) _ (by simp; omega)

/-- Byte `k` of a store takes bits 8k+7 to 8k of the value; every other byte is kept (R65). -/
theorem Memory.byte_setBytes {m : Memory} (h : m.wf = true) {a : Nat} (v : Word) {n : Nat} (ha : a + n ≤ m.size) (x : Nat) :
    (m.setBytes a v n).byte x = if a ≤ x ∧ x < a + n then (v >>> (8 * (x - a))).setWidth 8 else m.byte x := by
  induction n generalizing m a v with
  | zero => rw [if_neg (by omega)]; rfl
  | succ n ih =>
    simp only [Memory.setBytes]
    rw [ih (Memory.wf_setByte h _ (by omega)) _ (by simp; omega), Memory.byte_setByte h]
    by_cases hx : a = x
    · subst hx
      rw [if_neg (by omega), if_pos rfl, if_pos (by omega)]
      simp
    · rw [if_neg hx]
      by_cases hr : a + 1 ≤ x ∧ x < a + 1 + n
      · rw [if_pos hr, if_pos (by omega), ← BitVec.shiftRight_add]
        congr 2
        omega
      · rw [if_neg hr, if_neg (by omega)]

/-- A word's bytes make the word again (R64, R65). -/
theorem Memory.wordAt_setBytes {m : Memory} (h : m.wf = true) {a : Word} (v : Word) (ha : a.toNat + 4 ≤ m.size) :
    (m.setBytes a.toNat v 4).wordAt a = v := by
  have hb : ∀ k, k < 4 → ((m.setBytes a.toNat v 4).byte (a.toNat + k)).toNat = v.toNat / 2 ^ (8 * k) % 256 := by
    intro k hk
    rw [Memory.byte_setBytes h v ha, if_pos (by omega)]
    have : a.toNat + k - a.toNat = k := by omega
    simp [this, Nat.shiftRight_eq_div_pow]
  have h0 := hb 0 (by omega)
  have h1 := hb 1 (by omega)
  have h2 := hb 2 (by omega)
  have h3 := hb 3 (by omega)
  apply BitVec.eq_of_toNat_eq
  simp only [Nat.add_zero] at h0
  simp only [Memory.wordAt, Memory.bytesAt, BitVec.toNat_ofNat, h0, h1, Nat.add_assoc, Nat.reduceAdd, h2, h3]
  have := v.isLt
  omega

/-- A word is known from its four bytes, so a store elsewhere leaves it alone. -/
theorem Memory.bytesAt_congr {m m' : Memory} {a n : Nat} (h : ∀ x, a ≤ x → x < a + n → m.byte x = m'.byte x) :
    m.bytesAt a n = m'.bytesAt a n := by
  induction n generalizing a with
  | zero => rfl
  | succ n ih =>
    simp only [Memory.bytesAt]
    rw [h a (by omega) (by omega), ih fun x h1 h2 => h x (by omega) (by omega)]

theorem Memory.wordAt_setBytes_other {m : Memory} (h : m.wf = true) {a : Word} {b n : Nat} (v : Word)
    (hb : b + n ≤ m.size) (hd : a.toNat + 4 ≤ b ∨ b + n ≤ a.toNat) : (m.setBytes b v n).wordAt a = m.wordAt a := by
  unfold Memory.wordAt
  congr 1
  apply Memory.bytesAt_congr
  intro x h1 h2
  rw [Memory.byte_setBytes h v hb, if_neg (by omega)]

/-! ## The device's accesses (R64 to R66) -/

theorem memRead_eq (m : Memory) (a : Word) (n : Width) :
    memRead m a n = if a.toNat + n.bytes ≤ m.size then .ok (BitVec.ofNat 32 (m.bytesAt a.toNat n.bytes))
      else .error (.addressError a) := by
  simp [memRead, Memory.inRange]

theorem memRead_word_ok {m : Memory} {a : Word} (h : a.toNat + 4 ≤ m.size) : memRead m a .word = .ok (m.wordAt a) := by
  rw [memRead_eq, if_pos (by exact h)]; rfl

theorem memRead_word_error {m : Memory} {a : Word} (h : m.size < a.toNat + 4) :
    memRead m a .word = .error (.addressError a) := by
  rw [memRead_eq, if_neg (by simpa [Width.bytes] using h)]

theorem memWrite_eq (m : Memory) (a : Word) (n : Width) (v : Word) :
    memWrite m a n v = if a.toNat + n.bytes ≤ m.size then .ok (m.setBytes a.toNat v n.bytes)
      else .error (.addressError a) := by
  simp [memWrite, Memory.inRange]

theorem memWrite_word_ok {m : Memory} {a : Word} (v : Word) (h : a.toNat + 4 ≤ m.size) :
    memWrite m a .word v = .ok (m.setBytes a.toNat v 4) := by
  rw [memWrite_eq, if_pos (by exact h)]; rfl

theorem memWrite_word_error {m : Memory} {a : Word} (v : Word) (h : m.size < a.toNat + 4) :
    memWrite m a .word v = .error (.addressError a) := by
  rw [memWrite_eq, if_neg (by simpa [Width.bytes] using h)]

/-- A write that succeeds keeps the canonical form and the capacity. -/
theorem memWrite_keeps {m m' : Memory} {a : Word} {n : Width} {v : Word} (h : memWrite m a n v = .ok m') :
    m'.size = m.size ∧ (m.wf = true → m'.wf = true) := by
  rw [memWrite_eq] at h
  split at h
  · next hr =>
    cases h
    exact ⟨Memory.size_setBytes _ _ _ _, fun hw => Memory.wf_setBytes hw _ hr⟩
  · cases h

theorem memory_empty_wf (n : Nat) : ({ size := n, cells := [] } : Memory).wf = true := rfl

theorem reset_mem_wf : State.reset.mem.wf = true := rfl

end Sys2Proof.Machine
end

