-- ==== Sys2Proof/Laws/Flags.lean ====
section
/-! SUPPORT. The bits of a status register after a flag write, and the condition test after one. -/

namespace Sys2Proof.Machine

theorem getLsbD_setBit (v : Word) {i : Nat} (hi : i < 32) (b : Bool) (j : Nat) :
    (setBit v i b).getLsbD j = if j = i then b else v.getLsbD j := by
  have one : (1#32 <<< i).getLsbD j = decide (j = i) := by
    rw [← BitVec.twoPow_eq, BitVec.getLsbD_twoPow]
    by_cases h : j = i
    · subst h; simp [hi]
    · simp [h, Ne.symm h]
  unfold setBit
  cases b
  · rw [if_neg (by decide), BitVec.getLsbD_and, BitVec.getLsbD_not, one]
    by_cases h : j = i
    · simp [h]
    · by_cases hj : j < 32
      · simp [h, hj]
      · simp [h, hj, BitVec.getLsbD_of_ge v j (Nat.le_of_not_lt hj)]
  · rw [if_pos rfl, BitVec.getLsbD_or, one]
    by_cases h : j = i <;> simp [h]

/-- A flag write keeps every bit below 28: the control bits, T and the mode field. -/
theorem getLsbD_withNZCV_low (v : Word) (n z c o : Bool) {j : Nat} (hj : j < 28) :
    (withNZCV v n z c o).getLsbD j = v.getLsbD j := by
  unfold withNZCV
  rw [getLsbD_setBit _ (by omega), getLsbD_setBit _ (by omega), getLsbD_setBit _ (by omega), getLsbD_setBit _ (by omega),
    if_neg (by omega), if_neg (by omega), if_neg (by omega), if_neg (by omega)]

@[simp] theorem flagN_withNZCV (v : Word) (n z c o : Bool) : flagN (withNZCV v n z c o) = n := by
  simp only [flagN, withNZCV, getLsbD_setBit _ (show 28 < 32 by decide), getLsbD_setBit _ (show 29 < 32 by decide),
    getLsbD_setBit _ (show 30 < 32 by decide), getLsbD_setBit _ (show 31 < 32 by decide)]
  rfl

@[simp] theorem flagZ_withNZCV (v : Word) (n z c o : Bool) : flagZ (withNZCV v n z c o) = z := by
  simp only [flagZ, withNZCV, getLsbD_setBit _ (show 28 < 32 by decide), getLsbD_setBit _ (show 29 < 32 by decide),
    getLsbD_setBit _ (show 30 < 32 by decide), getLsbD_setBit _ (show 31 < 32 by decide)]
  rfl

@[simp] theorem flagC_withNZCV (v : Word) (n z c o : Bool) : flagC (withNZCV v n z c o) = c := by
  simp only [flagC, withNZCV, getLsbD_setBit _ (show 28 < 32 by decide), getLsbD_setBit _ (show 29 < 32 by decide),
    getLsbD_setBit _ (show 30 < 32 by decide), getLsbD_setBit _ (show 31 < 32 by decide)]
  rfl

@[simp] theorem flagV_withNZCV (v : Word) (n z c o : Bool) : flagV (withNZCV v n z c o) = o := by
  simp only [flagV, withNZCV, getLsbD_setBit _ (show 28 < 32 by decide), getLsbD_setBit _ (show 29 < 32 by decide),
    getLsbD_setBit _ (show 30 < 32 by decide), getLsbD_setBit _ (show 31 < 32 by decide)]
  rfl

@[simp] theorem modeField_withNZCV (v : Word) (n z c o : Bool) : modeField (withNZCV v n z c o) = modeField v := by
  apply BitVec.eq_of_getLsbD_eq
  intro i hi
  simp only [modeField, BitVec.getLsbD_extractLsb', Nat.zero_add, getLsbD_withNZCV_low v n z c o (show i < 28 by omega)]

@[simp] theorem modeField_setNZCV (v r : Word) (cf vf : FlagUpd) : modeField (setNZCV v r cf vf) = modeField v :=
  modeField_withNZCV v _ _ _ _

@[simp] theorem modeField_withT (v : Word) (t : Bool) : modeField (withT v t) = modeField v := by
  apply BitVec.eq_of_getLsbD_eq
  intro i hi
  have : i ≠ 5 := by omega
  simp only [modeField, BitVec.getLsbD_extractLsb', Nat.zero_add, withT, getLsbD_setBit v (show 5 < 32 by decide), if_neg this]

theorem withT_true (v : Word) : withT v true = v ||| 0x20 := rfl

theorem withT_false (v : Word) : withT v false = v &&& 0xFFFFFFDF := rfl

/-- The condition test reads bits 31 to 28 and nothing else (R151). -/
theorem condPassed_congr {v v' : Word} (h : ∀ i, 28 ≤ i → i < 32 → v.getLsbD i = v'.getLsbD i) (code : BitVec 4) :
    condPassed code v = condPassed code v' := by
  simp only [condPassed, flagN, flagZ, flagC, flagV]
  rw [h 31 (by omega) (by omega), h 30 (by omega) (by omega), h 29 (by omega) (by omega), h 28 (by omega) (by omega)]

/-- Code 1111 always passes (R152). -/
@[simp] theorem condPassed_reserved (v : Word) : condPassed 0b1111 v = true := rfl

@[simp] theorem condPassed_al (v : Word) : condPassed Cond.al.code v = true := rfl

end Sys2Proof.Machine
end

