-- ==== Sys2Proof/Laws/Runs.lean ====
section
/-! SUPPORT. One lemma for each operation that instruction bodies share, saying all it can do: the condition gate, the write half of
data processing, the SPSR checks, the CPSR write. -/

namespace Sys2Proof.Machine

/-! ## Bodies -/

@[simp] theorem Run.settle_ok (s : State) : (Run.ok s).settle = s := rfl
@[simp] theorem Run.settle_err (s : State) (f : Fault) : (Run.err s f).settle = s.haltedBy f := rfl
@[simp] theorem Run.andThen_ok (s : State) (k : State → Run) : (Run.ok s).andThen k = k s := rfl
@[simp] theorem Run.andThen_err (s : State) (f : Fault) (k : State → Run) : (Run.err s f).andThen k = .err s f := rfl

/-- The condition gate (R165). -/
theorem whenPassed_eq (c : Cond) (s : State) (body : State → Run) :
    whenPassed c s body = .next (if condPassed c.code s.cpsr then (body s).settle else s) := by
  unfold whenPassed; split <;> rfl

/-! ## Status registers -/

theorem hasSpsr_false_iff (m : Mode) : m.hasSpsr = false ↔ m = .usr ∨ m = .sys := by cases m <;> decide

theorem hasSpsr_true_iff (m : Mode) : m.hasSpsr = true ↔ m ≠ .usr ∧ m ≠ .sys := by cases m <;> decide

/-- `CheckSPSR` (R141). -/
theorem State.checkSpsr_eq (s : State) :
    s.checkSpsr = if s.mode = .usr ∨ s.mode = .sys then .err s (.spsrAccess s.mode) else .ok s := by
  unfold State.checkSpsr
  by_cases h : s.mode = .usr ∨ s.mode = .sys
  · rw [if_pos h, (hasSpsr_false_iff s.mode).2 h]; rfl
  · rw [if_neg h]
    cases hm : s.mode.hasSpsr
    · exact absurd ((hasSpsr_false_iff s.mode).1 hm) h
    · rfl

/-- `WriteCPSR` (R140). -/
theorem State.writeCpsr_of_none {s : State} {v : Word} (h : modeOf (modeField v) = none) :
    s.writeCpsr v = .err s (.invalidMode v) := by
  unfold State.writeCpsr; rw [h]

theorem State.writeCpsr_of_some {s : State} {v : Word} {m : Mode} (h : modeOf (modeField v) = some m) :
    s.writeCpsr v = .ok (({ s with cpsr := v } : State).switchMode m) := by
  unfold State.writeCpsr; rw [h]

/-- The checks ahead of a CPSR restore (R212, R261). -/
theorem State.checkReturn_cases (s : State) :
    ((s.mode = .usr ∨ s.mode = .sys) ∧ s.checkReturn = .err s (.spsrAccess s.mode)) ∨
    ((s.mode ≠ .usr ∧ s.mode ≠ .sys) ∧ modeOf (modeField s.spsr) = none ∧ s.checkReturn = .err s (.invalidMode s.spsr)) ∨
    ((s.mode ≠ .usr ∧ s.mode ≠ .sys) ∧ ∃ m, modeOf (modeField s.spsr) = some m ∧ s.checkReturn = .ok s) := by
  unfold State.checkReturn
  rw [State.checkSpsr_eq]
  by_cases h : s.mode = .usr ∨ s.mode = .sys
  · exact .inl ⟨h, by rw [if_pos h]; rfl⟩
  · refine .inr ?_
    have h' : s.mode ≠ .usr ∧ s.mode ≠ .sys := not_or.1 h
    rw [if_neg h, Run.andThen_ok]
    unfold validMode
    cases hm : modeOf (modeField s.spsr) with
    | none => exact .inl ⟨h', rfl, by simp⟩
    | some m => exact .inr ⟨h', m, rfl, by simp⟩

/-- The mode return of data processing, in the terms of the statements (R212). -/
theorem State.returnWrite_settle (s : State) (r : Word) : (s.returnWrite r).settle = returnResult s r := by
  unfold State.returnWrite returnResult
  rcases s.checkReturn_cases with ⟨h, e⟩ | ⟨h, hm, e⟩ | ⟨h, m, hm, e⟩
  · rw [e, if_pos h]; rfl
  · rw [e, if_neg (not_or.2 h)]
    have hm' : modeOf (s.spsr.extractLsb' 0 5) = none := hm
    rw [hm']; rfl
  · rw [e, if_neg (not_or.2 h)]
    have hm' : modeOf (s.spsr.extractLsb' 0 5) = some m := hm
    rw [hm', Run.andThen_ok, State.writeCpsr_of_some hm]; rfl

/-! ## Data processing -/

/-- The write half of the twelve writing opcodes, in the terms of the statements (R210 to R212). -/
theorem dpWrite_settle (sf : Bool) (rd : RegIdx) (o : AluOut) (s : State) :
    (dpWrite sf rd o s).settle = dpResult s sf rd o.r (o.r.getLsbD 31) (decide (o.r = 0)) (o.cf.apply (flagC s.cpsr))
      (o.vf.apply (flagV s.cpsr)) := by
  unfold dpWrite dpResult
  cases sf with
  | false => rfl
  | true =>
    by_cases h : rd = 15
    · subst h
      exact State.returnWrite_settle s o.r
    · have h' : (rd == pcIdx) = false := beq_eq_false_iff_ne.2 h
      rw [h', if_neg (by decide), if_neg h]
      simp only [if_true, Run.settle_ok]
      show State.setFlags _ _ = _
      unfold State.setFlags setNZCV State.write
      rw [beq_eq_decide]
      rfl

/-- The write half of the four comparisons (R213). -/
theorem dpCompare_settle (o : AluOut) (s : State) :
    (dpCompare o s).settle = { s with
      cpsr := withNZCV s.cpsr (o.r.getLsbD 31) (decide (o.r = 0)) (o.cf.apply (flagC s.cpsr)) (o.vf.apply (flagV s.cpsr)) } := by
  show State.setFlags _ _ = _
  unfold State.setFlags setNZCV
  rw [beq_eq_decide]

theorem carryAfter_eq (u : FlagUpd) (old : Bool) : carryAfter u old = u.apply old := by cases u <;> rfl

theorem FlagUpd.apply_ofBool (b old : Bool) : (FlagUpd.ofBool b).apply old = b := by cases b <;> rfl

end Sys2Proof.Machine
end

