-- ==== Sys2Proof/Laws/Blocks.lean ====
section
/-! SUPPORT. What a block of transfers does, said once: the registers loaded, the words stored, and what both leave alone
(`45_load_store_multiple.md` R256 to R269). -/

namespace Sys2Proof.Machine

/-- The address of the `k`-th transfer of a block that starts at `a` (R256). -/
def transferAddr (a : Word) (k : Nat) : Word := a + BitVec.ofNat 32 (4 * k)

theorem transferAddr_zero (a : Word) : transferAddr a 0 = a := by simp [transferAddr]

theorem transferAddr_succ (a : Word) (k : Nat) : transferAddr (a + 4) k = transferAddr a (k + 1) := by
  unfold transferAddr
  rw [BitVec.add_assoc]
  congr 1
  apply BitVec.eq_of_toNat_eq
  simp only [BitVec.toNat_add, BitVec.toNat_ofNat, show (4 : Word).toNat = 4 from rfl]
  omega

/-- Two transfers of one block never overlap. -/
theorem transferAddr_apart (a : Word) {k : Nat} (hk : 0 < k) (h : k < 2 ^ 28) :
    (transferAddr a k).toNat + 4 ≤ a.toNat ∨ a.toNat + 4 ≤ (transferAddr a k).toNat := by
  simp only [transferAddr, BitVec.toNat_add, BitVec.toNat_ofNat]
  have := a.isLt
  omega

/-! ## The register list -/

theorem mem_listedRegs (list : BitVec 16) (i : RegIdx) : i ∈ listedRegs list ↔ listed list i = true := by
  simp only [listedRegs, List.mem_map, List.mem_filter, List.mem_range, listed]
  constructor
  · rintro ⟨k, ⟨hk, hl⟩, rfl⟩
    rwa [BitVec.toNat_ofNat, Nat.mod_eq_of_lt hk]
  · intro h
    exact ⟨i.toNat, ⟨i.isLt, h⟩, by simp⟩

theorem nodup_listedRegs (list : BitVec 16) : (listedRegs list).Nodup := by
  unfold listedRegs
  refine List.Nodup.map_on ?_ (List.nodup_range.filter _)
  intro x hx y hy h
  simp only [List.mem_filter, List.mem_range] at hx hy
  have := congrArg BitVec.toNat h
  simpa [BitVec.toNat_ofNat, Nat.mod_eq_of_lt hx.1, Nat.mod_eq_of_lt hy.1] using this

/-- The list splits at a listed register into the lower ones, as many as its rank, itself, and the higher ones (R258). -/
theorem listedRegs_split (list : BitVec 16) (i : RegIdx) (h : listed list i = true) :
    ∃ l1 l2, listedRegs list = l1 ++ i :: l2 ∧ l1.length = rank list i.toNat ∧
      (∀ j ∈ l1, j.toNat < i.toNat) ∧ (∀ j ∈ l2, i.toNat < j.toNat) := by
  have hr : List.range 16 = List.range i.toNat ++ i.toNat :: (List.range' (i.toNat + 1) (15 - i.toNat)) := by
    have hi := i.isLt
    rw [List.range_eq_range', List.range_eq_range', show 16 = i.toNat + ((15 - i.toNat) + 1) by omega,
      List.range'_append_1.symm, List.range'_succ]
    simp
  refine ⟨((List.range i.toNat).filter fun k => list.getLsbD k).map (BitVec.ofNat 4),
    ((List.range' (i.toNat + 1) (15 - i.toNat)).filter fun k => list.getLsbD k).map (BitVec.ofNat 4), ?_, ?_, ?_, ?_⟩
  · unfold listedRegs
    rw [hr, List.filter_append, List.filter_cons_of_pos (by exact h), List.map_append, List.map_cons]
    simp
  · simp [rank]
  · intro j hj
    simp only [List.mem_map, List.mem_filter, List.mem_range] at hj
    obtain ⟨k, ⟨hk, -⟩, rfl⟩ := hj
    have := i.isLt
    rw [BitVec.toNat_ofNat]; omega
  · intro j hj
    simp only [List.mem_map, List.mem_filter, List.mem_range'_1] at hj
    obtain ⟨k, ⟨hk, -⟩, rfl⟩ := hj
    have := i.isLt
    rw [BitVec.toNat_ofNat]; omega

/-- A listed register stands in the list at its rank (R256, R258). -/
theorem listedRegs_rank {list : BitVec 16} {i : RegIdx} (h : listed list i = true) :
    ∃ hr : rank list i.toNat < (listedRegs list).length, (listedRegs list)[rank list i.toNat] = i := by
  obtain ⟨l1, l2, e, hl, -, -⟩ := listedRegs_split list i h
  have hr : rank list i.toNat < (listedRegs list).length := by rw [e, ← hl]; simp
  exact ⟨hr, by simp [e, ← hl]⟩

/-- The place of a transfer in the block is the rank of its register. -/
theorem rank_getElem (list : BitVec 16) (k : Nat) (hk : k < (listedRegs list).length) :
    rank list ((listedRegs list)[k]).toNat = k := by
  obtain ⟨hr, e⟩ := listedRegs_rank ((mem_listedRegs list _).1 (List.getElem_mem hk))
  exact ((nodup_listedRegs list).getElem_inj_iff).1 e

theorem listed_getElem (list : BitVec 16) (k : Nat) (hk : k < (listedRegs list).length) :
    listed list (listedRegs list)[k] = true := (mem_listedRegs list _).1 (List.getElem_mem hk)

theorem length_listedRegs_le (list : BitVec 16) : (listedRegs list).length ≤ 16 := by
  unfold listedRegs
  rw [List.length_map]
  exact (List.length_filter_le _ _).trans (by simp)

theorem blockAddr_eq (p u : Bool) (base : Word) (list : BitVec 16) (i : RegIdx) :
    blockAddr p u base list i = transferAddr (blockStart p u base list) (rank list i.toNat) := rfl

/-- A block in range has every transfer in range. -/
theorem transfers_in_range {m : Memory} {p u : Bool} {base : Word} {list : BitVec 16} (h : blockInRange m p u base list) (k : Nat)
    (hk : k < (listedRegs list).length) : (transferAddr (blockStart p u base list) k).toNat + 4 ≤ m.size := by
  have := h _ (listed_getElem list k hk)
  rwa [blockAddr_eq, rank_getElem] at this

/-! ## Loads -/

/-- A load of R15 keeps everything but `pc` and T; any other load is a register write (R259, R260). -/
theorem State.loadReg_eq (s : State) (i : RegIdx) (v : Word) :
    s.loadReg i v = if i = 15 then
        { s with regs := s.regs.set 15 (v &&& 0xFFFFFFFE), cpsr := if v.getLsbD 0 then s.cpsr ||| 0x20 else s.cpsr }
      else s.write i v := by
  unfold State.loadReg
  by_cases h : i = 15
  · rw [if_pos (show i = pcIdx from h), if_pos h]
    unfold State.loadPc
    split <;> rfl
  · rw [if_neg (show ¬ i = pcIdx from h), if_neg h]

theorem loadBlock_append (l1 l2 : List RegIdx) (a : Word) (s : State) :
    loadBlock (l1 ++ l2) a s = (loadBlock l1 a s).andThen (loadBlock l2 (transferAddr a l1.length)) := by
  induction l1 generalizing a s with
  | nil => simp [loadBlock, transferAddr_zero]
  | cons i l1 ih =>
    simp only [List.cons_append, loadBlock, List.length_cons]
    split
    · rfl
    · rw [ih, transferAddr_succ]

/-- What loading registers `l` from address `a` on leaves in `t`, when every transfer is in range: each listed register but R15 its
word, R15 and T by R260, everything else as it was. -/
structure Loaded (l : List RegIdx) (a : Word) (s t : State) : Prop where
  hit : ∀ (k : Nat) (h : k < l.length), l[k] ≠ 15 → t.read l[k] = s.mem.wordAt (transferAddr a k)
  miss : ∀ i, i ∉ l → t.read i = s.read i
  pc : ∀ (k : Nat) (h : k < l.length), l[k] = 15 → t.pc = s.mem.wordAt (transferAddr a k) &&& 0xFFFFFFFE ∧
    t.cpsr = if (s.mem.wordAt (transferAddr a k)).getLsbD 0 then s.cpsr ||| 0x20 else s.cpsr
  noPc : (15 : RegIdx) ∉ l → t.cpsr = s.cpsr
  rest : t = { s with regs := t.regs, cpsr := t.cpsr }

theorem loadBlock_ok (l : List RegIdx) (a : Word) (s : State) (hn : l.Nodup)
    (hr : ∀ k, k < l.length → (transferAddr a k).toNat + 4 ≤ s.mem.size) : ∃ t, loadBlock l a s = .ok t ∧ Loaded l a s t := by
  induction l generalizing a s with
  | nil => exact ⟨s, rfl, ⟨fun k h => absurd h (by simp), fun _ _ => rfl, fun k h => absurd h (by simp), fun _ => rfl, rfl⟩⟩
  | cons i l ih =>
    have h0 : a.toNat + 4 ≤ s.mem.size := by simpa [transferAddr_zero] using hr 0 (by simp)
    have hm : (s.loadReg i (s.mem.wordAt a)).mem = s.mem := by rw [State.loadReg_eq]; split <;> rfl
    obtain ⟨hil, hl⟩ := List.nodup_cons.1 hn
    obtain ⟨t, ht, L⟩ := ih (a + 4) (s.loadReg i (s.mem.wordAt a)) hl fun k hk => by
      rw [transferAddr_succ, hm]; exact hr (k + 1) (by simpa using hk)
    refine ⟨t, by simp only [loadBlock, memRead_word_ok h0]; exact ht, ?_, ?_, ?_, ?_, ?_⟩
    · intro k hk hne
      cases k with
      | zero =>
        simp only [List.getElem_cons_zero] at hne ⊢
        rw [L.miss i hil, State.loadReg_eq, if_neg hne, State.read_write_self, transferAddr_zero]
      | succ k =>
        simp only [List.getElem_cons_succ] at hne ⊢
        rw [L.hit k (by simpa using hk) hne, hm, transferAddr_succ]
    · intro j hj
      simp only [List.mem_cons, not_or] at hj
      rw [L.miss j hj.2, State.loadReg_eq]
      split
      · next h => subst h; exact State.read_setPc_ne s _ (Ne.symm hj.1)
      · exact State.read_write_ne s _ (Ne.symm hj.1)
    · intro k hk h15
      cases k with
      | zero =>
        simp only [List.getElem_cons_zero] at h15
        subst h15
        rw [transferAddr_zero]
        refine ⟨?_, ?_⟩
        · show t.read 15 = _
          rw [L.miss _ hil, State.loadReg_eq, if_pos rfl]
          exact State.pc_setPc s _
        · rw [L.noPc hil, State.loadReg_eq, if_pos rfl]
      | succ k =>
        simp only [List.getElem_cons_succ] at h15
        have hi : i ≠ 15 := fun h => hil (by rw [h, ← h15]; exact List.getElem_mem _)
        have hc : (s.loadReg i (s.mem.wordAt a)).cpsr = s.cpsr := by rw [State.loadReg_eq, if_neg hi]; rfl
        have := L.pc k (by simpa using hk) h15
        rwa [hm, transferAddr_succ, hc] at this
    · intro h15
      simp only [List.mem_cons, not_or] at h15
      rw [L.noPc h15.2, State.loadReg_eq, if_neg (Ne.symm h15.1)]
      rfl
    · have h1 := L.rest
      rw [State.loadReg_eq] at h1
      rw [h1]
      split <;> rfl

/-- The first transfer out of range ends a block load with `AddressError` and the earlier loads done (R269). -/
theorem loadBlock_fails {l1 l2 : List RegIdx} {i : RegIdx} {a : Word} {s : State} (hn : (l1 ++ i :: l2).Nodup)
    (hr : ∀ k, k < l1.length → (transferAddr a k).toNat + 4 ≤ s.mem.size)
    (hf : s.mem.size < (transferAddr a l1.length).toNat + 4) :
    ∃ t, loadBlock (l1 ++ i :: l2) a s = .err t (.addressError (transferAddr a l1.length)) ∧ Loaded l1 a s t := by
  obtain ⟨t, ht, L⟩ := loadBlock_ok l1 a s (List.Nodup.of_append_left hn) hr
  refine ⟨t, ?_, L⟩
  have hm : t.mem = s.mem := by rw [L.rest]
  rw [loadBlock_append, ht, Run.andThen_ok]
  simp only [loadBlock, hm, memRead_word_error hf]

/-! ## Stores -/

theorem storeBlock_append (l1 l2 : List RegIdx) (a : Word) (s : State) :
    storeBlock (l1 ++ l2) a s = (storeBlock l1 a s).andThen (storeBlock l2 (transferAddr a l1.length)) := by
  induction l1 generalizing a s with
  | nil => simp [storeBlock, transferAddr_zero]
  | cons i l1 ih =>
    simp only [List.cons_append, storeBlock, List.length_cons]
    split
    · rfl
    · rw [ih, transferAddr_succ]

/-- What storing registers `l` from address `a` on leaves in `t`, when every transfer is in range: each register's word at its
address, every other byte and everything else as it was. -/
structure Stored (l : List RegIdx) (a : Word) (s t : State) : Prop where
  hit : ∀ (k : Nat) (h : k < l.length), t.mem.wordAt (transferAddr a k) = s.read l[k]
  miss : ∀ x, (∀ k, k < l.length → x < (transferAddr a k).toNat ∨ (transferAddr a k).toNat + 4 ≤ x) → t.mem.byte x = s.mem.byte x
  wf : t.mem.wf = true
  size : t.mem.size = s.mem.size
  rest : t = { s with mem := t.mem }

theorem storeBlock_ok (l : List RegIdx) (a : Word) (s : State) (hlen : l.length ≤ 16) (hw : s.mem.wf = true)
    (hr : ∀ k, k < l.length → (transferAddr a k).toNat + 4 ≤ s.mem.size) :
    ∃ t, storeBlock l a s = .ok t ∧ Stored l a s t := by
  induction l generalizing a s with
  | nil => exact ⟨s, rfl, ⟨fun k h => absurd h (by simp), fun _ _ => rfl, hw, rfl, rfl⟩⟩
  | cons i l ih =>
    have hlen' : l.length + 1 ≤ 16 := hlen
    have h0 : a.toNat + 4 ≤ s.mem.size := by simpa [transferAddr_zero] using hr 0 (by simp)
    obtain ⟨t, ht, S⟩ := ih (a + 4) { s with mem := s.mem.setBytes a.toNat (s.read i) 4 } (by omega)
      (Memory.wf_setBytes hw _ h0) fun k hk => by
        rw [transferAddr_succ]
        simpa using hr (k + 1) (by simpa using hk)
    refine ⟨t, by simp only [storeBlock, memWrite_word_ok _ h0]; exact ht, ?_, ?_, S.wf, ?_, ?_⟩
    · intro k hk
      cases k with
      | zero =>
        rw [transferAddr_zero, List.getElem_cons_zero]
        have hkeep : t.mem.wordAt a = (s.mem.setBytes a.toNat (s.read i) 4).wordAt a := by
          unfold Memory.wordAt
          congr 1
          apply Memory.bytesAt_congr
          intro x h1 h2
          apply S.miss
          intro k hk
          rw [transferAddr_succ]
          have := transferAddr_apart a (k := k + 1) (by omega) (by omega)
          omega
        rw [hkeep, Memory.wordAt_setBytes hw _ h0]
      | succ k =>
        rw [List.getElem_cons_succ, ← transferAddr_succ]
        exact S.hit k (by simpa using hk)
    · intro x hx
      rw [S.miss x fun k hk => by rw [transferAddr_succ]; exact hx (k + 1) (by simpa using hk)]
      have := hx 0 (by simp)
      rw [transferAddr_zero] at this
      show (s.mem.setBytes _ _ _).byte x = _
      rw [Memory.byte_setBytes hw _ h0, if_neg (by omega)]
    · rw [S.size]; exact Memory.size_setBytes _ _ _ _
    · rw [S.rest]

/-- The first transfer out of range ends a block store with `AddressError` and the earlier stores done (R269). -/
theorem storeBlock_fails {l1 l2 : List RegIdx} {i : RegIdx} {a : Word} {s : State} (hlen : l1.length ≤ 16)
    (hw : s.mem.wf = true) (hr : ∀ k, k < l1.length → (transferAddr a k).toNat + 4 ≤ s.mem.size)
    (hf : s.mem.size < (transferAddr a l1.length).toNat + 4) :
    ∃ t, storeBlock (l1 ++ i :: l2) a s = .err t (.addressError (transferAddr a l1.length)) ∧ Stored l1 a s t := by
  obtain ⟨t, ht, S⟩ := storeBlock_ok l1 a s hlen hw hr
  refine ⟨t, ?_, S⟩
  rw [storeBlock_append, ht, Run.andThen_ok]
  simp only [storeBlock, memWrite_word_error _ (show t.mem.size < _ by rw [S.size]; exact hf)]

/-! ## The write-back, and the frames that hold whether or not an access fails -/

/-- The base write-back, in the terms of the statements (R257). -/
theorem State.writeBack_eq (s : State) (u w : Bool) (rn : RegIdx) (list : BitVec 16) :
    s.writeBack u w rn list = afterWriteBack s u w rn list := rfl

theorem afterWriteBack_rest (s : State) (u w : Bool) (rn : RegIdx) (list : BitVec 16) :
    afterWriteBack s u w rn list = { s with regs := (afterWriteBack s u w rn list).regs } := by
  unfold afterWriteBack; split <;> rfl

/-- A block load, whatever its outcome, changes no more than registers and T, which it can only set. -/
theorem loadBlock_frame (l : List RegIdx) (a : Word) (s : State) :
    (∃ t, loadBlock l a s = .ok t ∧ t = { s with regs := t.regs, cpsr := t.cpsr } ∧
      (t.cpsr = s.cpsr ∨ t.cpsr = s.cpsr ||| 0x20)) ∨
    (∃ t b, loadBlock l a s = .err t (.addressError b) ∧ t = { s with regs := t.regs, cpsr := t.cpsr } ∧
      (t.cpsr = s.cpsr ∨ t.cpsr = s.cpsr ||| 0x20)) := by
  induction l generalizing a s with
  | nil => exact .inl ⟨s, rfl, rfl, .inl rfl⟩
  | cons i l ih =>
    simp only [loadBlock, memRead_eq]
    by_cases h : a.toNat + Width.word.bytes ≤ s.mem.size
    · rw [if_pos h]
      have hs : ∀ v, s.loadReg i v = { s with regs := (s.loadReg i v).regs, cpsr := (s.loadReg i v).cpsr } ∧
          ((s.loadReg i v).cpsr = s.cpsr ∨ (s.loadReg i v).cpsr = s.cpsr ||| 0x20) := by
        intro v
        rw [State.loadReg_eq]
        split
        · refine ⟨rfl, ?_⟩
          show (if _ then _ else _) = _ ∨ (if _ then _ else _) = _
          split
          · exact .inr rfl
          · exact .inl rfl
        · exact ⟨rfl, .inl rfl⟩
      have trans : ∀ {t u : State}, (u.cpsr = s.cpsr ∨ u.cpsr = s.cpsr ||| 0x20) →
          (t.cpsr = u.cpsr ∨ t.cpsr = u.cpsr ||| 0x20) → (t.cpsr = s.cpsr ∨ t.cpsr = s.cpsr ||| 0x20) := by
        intro t u h1 h2
        rcases h1 with h1 | h1 <;> rcases h2 with h2 | h2 <;> rw [h1] at h2
        · exact .inl h2
        · exact .inr h2
        · exact .inr h2
        · exact .inr (by rw [h2, BitVec.or_assoc, BitVec.or_self])
      rcases ih (a + 4) (s.loadReg i (BitVec.ofNat 32 (s.mem.bytesAt a.toNat Width.word.bytes))) with
        ⟨t, e, r, m⟩ | ⟨t, b, e, r, m⟩
      · refine .inl ⟨t, e, ?_, trans (hs _).2 m⟩
        rw [r, (hs _).1]
      · refine .inr ⟨t, b, e, ?_, trans (hs _).2 m⟩
        rw [r, (hs _).1]
    · rw [if_neg h]
      exact .inr ⟨s, a, rfl, rfl, .inl rfl⟩

/-- A block store, whatever its outcome, changes memory only, and keeps its capacity and canonical form. -/
theorem storeBlock_frame (l : List RegIdx) (a : Word) (s : State) :
    (∃ t, storeBlock l a s = .ok t ∧ t = { s with mem := t.mem } ∧ t.mem.size = s.mem.size ∧
      (s.mem.wf = true → t.mem.wf = true)) ∨
    (∃ t b, storeBlock l a s = .err t (.addressError b) ∧ t = { s with mem := t.mem } ∧ t.mem.size = s.mem.size ∧
      (s.mem.wf = true → t.mem.wf = true)) := by
  induction l generalizing a s with
  | nil => exact .inl ⟨s, rfl, rfl, rfl, id⟩
  | cons i l ih =>
    simp only [storeBlock]
    cases hm : memWrite s.mem a .word (s.read i) with
    | error f =>
      have : f = .addressError a := by
        rw [memWrite_eq] at hm
        split at hm
        · cases hm
        · cases hm; rfl
      subst this
      exact .inr ⟨s, a, rfl, rfl, rfl, id⟩
    | ok m =>
      obtain ⟨hsz, hwf⟩ := memWrite_keeps hm
      rcases ih (a + 4) { s with mem := m } with ⟨t, e, r, z, k⟩ | ⟨t, b, e, r, z, k⟩
      · exact .inl ⟨t, e, by rw [r], z.trans hsz, fun h => k (hwf h)⟩
      · exact .inr ⟨t, b, e, by rw [r], z.trans hsz, fun h => k (hwf h)⟩

@[simp] theorem afterWriteBack_mem (s : State) (u w : Bool) (rn : RegIdx) (list : BitVec 16) :
    (afterWriteBack s u w rn list).mem = s.mem := by unfold afterWriteBack; split <;> rfl
@[simp] theorem afterWriteBack_cpsr (s : State) (u w : Bool) (rn : RegIdx) (list : BitVec 16) :
    (afterWriteBack s u w rn list).cpsr = s.cpsr := by unfold afterWriteBack; split <;> rfl
@[simp] theorem afterWriteBack_spsr (s : State) (u w : Bool) (rn : RegIdx) (list : BitVec 16) :
    (afterWriteBack s u w rn list).spsr = s.spsr := by unfold afterWriteBack; split <;> rfl
@[simp] theorem afterWriteBack_mode (s : State) (u w : Bool) (rn : RegIdx) (list : BitVec 16) :
    (afterWriteBack s u w rn list).mode = s.mode := by unfold afterWriteBack; split <;> rfl
@[simp] theorem afterWriteBack_ir (s : State) (u w : Bool) (rn : RegIdx) (list : BitVec 16) :
    (afterWriteBack s u w rn list).ir = s.ir := by unfold afterWriteBack; split <;> rfl
@[simp] theorem afterWriteBack_halted (s : State) (u w : Bool) (rn : RegIdx) (list : BitVec 16) :
    (afterWriteBack s u w rn list).halted = s.halted := by unfold afterWriteBack; split <;> rfl
@[simp] theorem afterWriteBack_err (s : State) (u w : Bool) (rn : RegIdx) (list : BitVec 16) :
    (afterWriteBack s u w rn list).err = s.err := by unfold afterWriteBack; split <;> rfl

theorem afterWriteBack_spsrIn (s : State) (u w : Bool) (rn : RegIdx) (list : BitVec 16) (m : Mode) :
    (afterWriteBack s u w rn list).spsrIn m = s.spsrIn m := by
  unfold afterWriteBack
  split
  · unfold State.spsrIn; cases m <;> rfl
  · rfl

/-! ## Blocks in the terms of the statements -/

/-- A block load as every mode sees it: the loaded registers `P` in the modes that share their cell, and nothing else. -/
theorem Loaded.view {list : BitVec 16} {a : Word} {s t : State} {l : List RegIdx} (h : Loaded l a s t) (P : RegIdx → Prop)
    [DecidablePred P] (hl : ∀ i, i ∈ l ↔ P i) (hk : ∀ k (hk : k < l.length), rank list (l[k]).toNat = k) (m : Mode) (i : RegIdx)
    (hi : i ≠ 15 ∨ ¬ P i) : t.regIn m i =
      if P i ∧ sameCell s.mode m i = true then s.mem.wordAt (transferAddr a (rank list i.toNat)) else s.regIn m i := by
  rw [h.rest, State.regIn_of_active s t.regs t.cpsr s.spsr s.ir s.halted s.err s.mem m i, sameCell_comm]
  by_cases hc : sameCell s.mode m i = true
  · rw [if_pos hc]
    by_cases hp : P i
    · rw [if_pos ⟨hp, hc⟩]
      obtain ⟨k, hk', rfl⟩ := List.getElem_of_mem ((hl i).2 hp)
      rw [hk k hk']
      exact h.hit k hk' (hi.resolve_right (fun x => x hp))
    · rw [if_neg (fun x => hp x.1)]
      show t.read i = _
      rw [h.miss i (fun x => hp ((hl i).1 x))]
      unfold State.regIn
      rw [sameCell_comm, if_pos hc]
  · rw [if_neg hc, if_neg (fun x => hc x.2)]

/-- A whole block load as every mode sees it. -/
theorem Loaded.view_all {list : BitVec 16} {a : Word} {s t : State} (h : Loaded (listedRegs list) a s t) (m : Mode) (i : RegIdx)
    (hi : i ≠ 15 ∨ listed list i = false) : t.regIn m i =
      if listed list i ∧ sameCell s.mode m i = true then s.mem.wordAt (transferAddr a (rank list i.toNat)) else s.regIn m i :=
  h.view (fun i => listed list i = true) (mem_listedRegs list) (rank_getElem list) m i (hi.imp_right (by simp))

/-- A loaded R15 (R260). -/
theorem Loaded.pc_all {list : BitVec 16} {a : Word} {s t : State} (h : Loaded (listedRegs list) a s t)
    (hl : listed list 15 = true) : t.pc = s.mem.wordAt (transferAddr a (rank list 15)) &&& 0xFFFFFFFE ∧
      t.cpsr = if (s.mem.wordAt (transferAddr a (rank list 15))).getLsbD 0 then s.cpsr ||| 0x20 else s.cpsr := by
  obtain ⟨hr, e⟩ := listedRegs_rank hl
  exact h.pc _ hr e

theorem Stored.at_blockAddr {p u : Bool} {base : Word} {list : BitVec 16} {s t : State}
    (h : Stored (listedRegs list) (blockStart p u base list) s t) {r : RegIdx} (hl : listed list r = true) :
    t.mem.wordAt (blockAddr p u base list r) = s.read r := by
  obtain ⟨hr, e⟩ := listedRegs_rank hl
  have := h.hit _ hr
  rwa [e] at this

theorem Stored.outside {p u : Bool} {base : Word} {list : BitVec 16} {s t : State}
    (h : Stored (listedRegs list) (blockStart p u base list) s t) {x : Nat} (ho : outsideBlock p u base list 16 x) :
    t.mem.byte x = s.mem.byte x := by
  apply h.miss
  intro k hk
  have := ho _ (listed_getElem list k hk) (BitVec.isLt _)
  rwa [blockAddr_eq, rank_getElem] at this

/-- The part of a block below its first transfer out of range (R269). -/
theorem blockFailsAt_split {m : Memory} {p u : Bool} {base : Word} {list : BitVec 16} {j : RegIdx}
    (h : blockFailsAt m p u base list j) : ∃ l1 l2, listedRegs list = l1 ++ j :: l2 ∧ l1.length = rank list j.toNat ∧
      (∀ i, i ∈ l1 ↔ (listed list i = true ∧ i.toNat < j.toNat)) ∧
      (∀ k (hk : k < l1.length), rank list (l1[k]).toNat = k) ∧
      (∀ k, k < l1.length → (transferAddr (blockStart p u base list) k).toNat + 4 ≤ m.size) ∧
      m.size < (transferAddr (blockStart p u base list) l1.length).toNat + 4 := by
  obtain ⟨hl, hf, hb⟩ := h
  obtain ⟨l1, l2, e, hlen, h1, h2⟩ := listedRegs_split list j hl
  have hmem : ∀ i, i ∈ l1 ↔ (listed list i = true ∧ i.toNat < j.toNat) := by
    intro i
    constructor
    · exact fun hi => ⟨(mem_listedRegs list i).1 (by rw [e]; simp [hi]), h1 i hi⟩
    · rintro ⟨hi, hij⟩
      have := (mem_listedRegs list i).2 hi
      rw [e] at this
      simp only [List.mem_append, List.mem_cons] at this
      rcases this with h | rfl | h
      · exact h
      · omega
      · have := h2 i h; omega
  have hk : ∀ k (hk : k < l1.length), rank list (l1[k]).toNat = k := by
    intro k hk
    have := rank_getElem list k (by rw [e]; simp; omega)
    have e2 : (listedRegs list)[k]'(by rw [e]; simp; omega) = l1[k] := by simp only [e]; rw [List.getElem_append_left hk]
    rwa [e2] at this
  refine ⟨l1, l2, e, hlen, hmem, hk, fun k hkk => ?_, ?_⟩
  · have := (hmem _).1 (List.getElem_mem hkk)
    have := hb _ this.1 this.2
    rwa [blockAddr_eq, hk k hkk] at this
  · rw [blockAddr_eq, ← hlen] at hf; exact hf

end Sys2Proof.Machine
end

