-- ==== Sys2Proof/Laws/Decode.lean ====
section
/-! SUPPORT. The encoder's formats field by field: every field of an encoded word reads as it was written (`30_encoding.md` R91 to
R101). -/

namespace Sys2Proof

theorem getLsbD_atBit (n : Nat) (x : BitVec n) (p i : Nat) :
    (atBit n x p).getLsbD i = (decide (i < 32) && decide (p ≤ i) && x.getLsbD (i - p)) := by
  unfold atBit
  by_cases h : i < 32 <;> by_cases h2 : p ≤ i <;> simp [h, h2]

@[simp] theorem Cond.ofCode_code (c : Cond) : Cond.ofCode c.code = some c := by cases c <;> rfl

/-- Code 1111 is the one code of no condition (R150, R152). -/
theorem Cond.code_ofCode {code : BitVec 4} {c : Cond} (h : Cond.ofCode code = some c) : c.code = code := by
  revert h; revert code; cases c <;> decide

theorem Cond.ofCode_none {code : BitVec 4} : Cond.ofCode code = none ↔ code = 0b1111 := by
  revert code; decide

theorem shiftF_of_bits {w : Word} {ty : ShiftType} (h : w.extractLsb' 5 2 = ty.code) : shiftF w = ty := by
  unfold shiftF; rw [h]; cases ty <;> rfl

theorem psrF_of_bit {w : Word} {psr : Psr} (h : w.getLsbD 22 = psr.code.getLsbD 0) : psrF w = psr := by
  unfold psrF; rw [h]; cases psr <;> rfl

/-! ## `encDpImm` -/

section
variable (c : Cond) (op : BitVec 4) (s : Bool) (rn rd : RegIdx) (rot : BitVec 4) (imm8 : BitVec 8)

theorem condF_encDpImm : condF (encDpImm c op s rn rd rot imm8) = c.code := by
  apply BitVec.eq_of_getLsbD_eq
  intro i hi
  simp only [condF, encDpImm, bitAt, BitVec.getLsbD_extractLsb', BitVec.getLsbD_or, getLsbD_atBit]
  interval_cases i <;> simp

theorem opcodeF_encDpImm : opcodeF (encDpImm c op s rn rd rot imm8) = op := by
  apply BitVec.eq_of_getLsbD_eq
  intro i hi
  simp only [opcodeF, encDpImm, bitAt, BitVec.getLsbD_extractLsb', BitVec.getLsbD_or, getLsbD_atBit]
  interval_cases i <;> simp

theorem sF_encDpImm : sF (encDpImm c op s rn rd rot imm8) = s := by
  simp only [sF, encDpImm, bitAt, BitVec.getLsbD_or, getLsbD_atBit]
  simp

theorem rnF_encDpImm : rnF (encDpImm c op s rn rd rot imm8) = rn := by
  apply BitVec.eq_of_getLsbD_eq
  intro i hi
  simp only [rnF, encDpImm, bitAt, BitVec.getLsbD_extractLsb', BitVec.getLsbD_or, getLsbD_atBit]
  interval_cases i <;> simp

theorem rdF_encDpImm : rdF (encDpImm c op s rn rd rot imm8) = rd := by
  apply BitVec.eq_of_getLsbD_eq
  intro i hi
  simp only [rdF, encDpImm, bitAt, BitVec.getLsbD_extractLsb', BitVec.getLsbD_or, getLsbD_atBit]
  interval_cases i <;> simp

theorem groupF_encDpImm : groupF (encDpImm c op s rn rd rot imm8) = 1 := by
  apply BitVec.eq_of_getLsbD_eq
  intro i hi
  simp only [groupF, encDpImm, bitAt, BitVec.getLsbD_extractLsb', BitVec.getLsbD_or, getLsbD_atBit]
  interval_cases i <;> simp

theorem rotF_encDpImm : rotF (encDpImm c op s rn rd rot imm8) = rot := by
  apply BitVec.eq_of_getLsbD_eq
  intro i hi
  simp only [rotF, encDpImm, bitAt, BitVec.getLsbD_extractLsb', BitVec.getLsbD_or, getLsbD_atBit]
  interval_cases i <;> simp

theorem imm8F_encDpImm : imm8F (encDpImm c op s rn rd rot imm8) = imm8 := by
  apply BitVec.eq_of_getLsbD_eq
  intro i hi
  simp only [imm8F, encDpImm, bitAt, BitVec.getLsbD_extractLsb', BitVec.getLsbD_or, getLsbD_atBit]
  interval_cases i <;> simp

theorem bit24_encDpImm : (encDpImm c op s rn rd rot imm8).getLsbD 24 = op.getLsbD 3 := by
  simp only [encDpImm, bitAt, BitVec.getLsbD_or, getLsbD_atBit]
  simp

theorem bit23_encDpImm : (encDpImm c op s rn rd rot imm8).getLsbD 23 = op.getLsbD 2 := by
  simp only [encDpImm, bitAt, BitVec.getLsbD_or, getLsbD_atBit]
  simp

theorem bit21_encDpImm : (encDpImm c op s rn rd rot imm8).getLsbD 21 = op.getLsbD 0 := by
  simp only [encDpImm, bitAt, BitVec.getLsbD_or, getLsbD_atBit]
  simp

theorem bit20_encDpImm : (encDpImm c op s rn rd rot imm8).getLsbD 20 = s := by
  simp only [encDpImm, bitAt, BitVec.getLsbD_or, getLsbD_atBit]
  simp

end

/-! ## `encDpShImm` -/

section
variable (c : Cond) (op : BitVec 4) (s : Bool) (rn rd : RegIdx) (amt : BitVec 5) (ty : ShiftType) (rm : RegIdx)

theorem condF_encDpShImm : condF (encDpShImm c op s rn rd amt ty rm) = c.code := by
  apply BitVec.eq_of_getLsbD_eq
  intro i hi
  simp only [condF, encDpShImm, bitAt, BitVec.getLsbD_extractLsb', BitVec.getLsbD_or, getLsbD_atBit]
  interval_cases i <;> simp

theorem opcodeF_encDpShImm : opcodeF (encDpShImm c op s rn rd amt ty rm) = op := by
  apply BitVec.eq_of_getLsbD_eq
  intro i hi
  simp only [opcodeF, encDpShImm, bitAt, BitVec.getLsbD_extractLsb', BitVec.getLsbD_or, getLsbD_atBit]
  interval_cases i <;> simp

theorem sF_encDpShImm : sF (encDpShImm c op s rn rd amt ty rm) = s := by
  simp only [sF, encDpShImm, bitAt, BitVec.getLsbD_or, getLsbD_atBit]
  simp

theorem rnF_encDpShImm : rnF (encDpShImm c op s rn rd amt ty rm) = rn := by
  apply BitVec.eq_of_getLsbD_eq
  intro i hi
  simp only [rnF, encDpShImm, bitAt, BitVec.getLsbD_extractLsb', BitVec.getLsbD_or, getLsbD_atBit]
  interval_cases i <;> simp

theorem rdF_encDpShImm : rdF (encDpShImm c op s rn rd amt ty rm) = rd := by
  apply BitVec.eq_of_getLsbD_eq
  intro i hi
  simp only [rdF, encDpShImm, bitAt, BitVec.getLsbD_extractLsb', BitVec.getLsbD_or, getLsbD_atBit]
  interval_cases i <;> simp

theorem groupF_encDpShImm : groupF (encDpShImm c op s rn rd amt ty rm) = 0 := by
  apply BitVec.eq_of_getLsbD_eq
  intro i hi
  simp only [groupF, encDpShImm, bitAt, BitVec.getLsbD_extractLsb', BitVec.getLsbD_or, getLsbD_atBit]
  interval_cases i <;> simp

theorem amtF_encDpShImm : amtF (encDpShImm c op s rn rd amt ty rm) = amt := by
  apply BitVec.eq_of_getLsbD_eq
  intro i hi
  simp only [amtF, encDpShImm, bitAt, BitVec.getLsbD_extractLsb', BitVec.getLsbD_or, getLsbD_atBit]
  interval_cases i <;> simp

theorem shiftF_encDpShImm : shiftF (encDpShImm c op s rn rd amt ty rm) = ty := by
  apply shiftF_of_bits
  apply BitVec.eq_of_getLsbD_eq
  intro i hi
  simp only [encDpShImm, bitAt, BitVec.getLsbD_extractLsb', BitVec.getLsbD_or, getLsbD_atBit]
  interval_cases i <;> simp

theorem rmF_encDpShImm : rmF (encDpShImm c op s rn rd amt ty rm) = rm := by
  apply BitVec.eq_of_getLsbD_eq
  intro i hi
  simp only [rmF, encDpShImm, bitAt, BitVec.getLsbD_extractLsb', BitVec.getLsbD_or, getLsbD_atBit]
  interval_cases i <;> simp

theorem bit24_encDpShImm : (encDpShImm c op s rn rd amt ty rm).getLsbD 24 = op.getLsbD 3 := by
  simp only [encDpShImm, bitAt, BitVec.getLsbD_or, getLsbD_atBit]
  simp

theorem bit23_encDpShImm : (encDpShImm c op s rn rd amt ty rm).getLsbD 23 = op.getLsbD 2 := by
  simp only [encDpShImm, bitAt, BitVec.getLsbD_or, getLsbD_atBit]
  simp

theorem bit21_encDpShImm : (encDpShImm c op s rn rd amt ty rm).getLsbD 21 = op.getLsbD 0 := by
  simp only [encDpShImm, bitAt, BitVec.getLsbD_or, getLsbD_atBit]
  simp

theorem bit20_encDpShImm : (encDpShImm c op s rn rd amt ty rm).getLsbD 20 = s := by
  simp only [encDpShImm, bitAt, BitVec.getLsbD_or, getLsbD_atBit]
  simp

theorem bit4_encDpShImm : (encDpShImm c op s rn rd amt ty rm).getLsbD 4 = false := by
  simp only [encDpShImm, bitAt, BitVec.getLsbD_or, getLsbD_atBit]
  simp

end

/-! ## `encDpShReg` -/

section
variable (c : Cond) (op : BitVec 4) (s : Bool) (rn rd rs : RegIdx) (ty : ShiftType) (rm : RegIdx)

theorem condF_encDpShReg : condF (encDpShReg c op s rn rd rs ty rm) = c.code := by
  apply BitVec.eq_of_getLsbD_eq
  intro i hi
  simp only [condF, encDpShReg, bitAt, BitVec.getLsbD_extractLsb', BitVec.getLsbD_or, getLsbD_atBit]
  interval_cases i <;> simp

theorem opcodeF_encDpShReg : opcodeF (encDpShReg c op s rn rd rs ty rm) = op := by
  apply BitVec.eq_of_getLsbD_eq
  intro i hi
  simp only [opcodeF, encDpShReg, bitAt, BitVec.getLsbD_extractLsb', BitVec.getLsbD_or, getLsbD_atBit]
  interval_cases i <;> simp

theorem sF_encDpShReg : sF (encDpShReg c op s rn rd rs ty rm) = s := by
  simp only [sF, encDpShReg, bitAt, BitVec.getLsbD_or, getLsbD_atBit]
  simp

theorem rnF_encDpShReg : rnF (encDpShReg c op s rn rd rs ty rm) = rn := by
  apply BitVec.eq_of_getLsbD_eq
  intro i hi
  simp only [rnF, encDpShReg, bitAt, BitVec.getLsbD_extractLsb', BitVec.getLsbD_or, getLsbD_atBit]
  interval_cases i <;> simp

theorem rdF_encDpShReg : rdF (encDpShReg c op s rn rd rs ty rm) = rd := by
  apply BitVec.eq_of_getLsbD_eq
  intro i hi
  simp only [rdF, encDpShReg, bitAt, BitVec.getLsbD_extractLsb', BitVec.getLsbD_or, getLsbD_atBit]
  interval_cases i <;> simp

theorem groupF_encDpShReg : groupF (encDpShReg c op s rn rd rs ty rm) = 0 := by
  apply BitVec.eq_of_getLsbD_eq
  intro i hi
  simp only [groupF, encDpShReg, bitAt, BitVec.getLsbD_extractLsb', BitVec.getLsbD_or, getLsbD_atBit]
  interval_cases i <;> simp

theorem rsF_encDpShReg : rsF (encDpShReg c op s rn rd rs ty rm) = rs := by
  apply BitVec.eq_of_getLsbD_eq
  intro i hi
  simp only [rsF, encDpShReg, bitAt, BitVec.getLsbD_extractLsb', BitVec.getLsbD_or, getLsbD_atBit]
  interval_cases i <;> simp

theorem shiftF_encDpShReg : shiftF (encDpShReg c op s rn rd rs ty rm) = ty := by
  apply shiftF_of_bits
  apply BitVec.eq_of_getLsbD_eq
  intro i hi
  simp only [encDpShReg, bitAt, BitVec.getLsbD_extractLsb', BitVec.getLsbD_or, getLsbD_atBit]
  interval_cases i <;> simp

theorem rmF_encDpShReg : rmF (encDpShReg c op s rn rd rs ty rm) = rm := by
  apply BitVec.eq_of_getLsbD_eq
  intro i hi
  simp only [rmF, encDpShReg, bitAt, BitVec.getLsbD_extractLsb', BitVec.getLsbD_or, getLsbD_atBit]
  interval_cases i <;> simp

theorem bit24_encDpShReg : (encDpShReg c op s rn rd rs ty rm).getLsbD 24 = op.getLsbD 3 := by
  simp only [encDpShReg, bitAt, BitVec.getLsbD_or, getLsbD_atBit]
  simp

theorem bit23_encDpShReg : (encDpShReg c op s rn rd rs ty rm).getLsbD 23 = op.getLsbD 2 := by
  simp only [encDpShReg, bitAt, BitVec.getLsbD_or, getLsbD_atBit]
  simp

theorem bit21_encDpShReg : (encDpShReg c op s rn rd rs ty rm).getLsbD 21 = op.getLsbD 0 := by
  simp only [encDpShReg, bitAt, BitVec.getLsbD_or, getLsbD_atBit]
  simp

theorem bit20_encDpShReg : (encDpShReg c op s rn rd rs ty rm).getLsbD 20 = s := by
  simp only [encDpShReg, bitAt, BitVec.getLsbD_or, getLsbD_atBit]
  simp

theorem bit4_encDpShReg : (encDpShReg c op s rn rd rs ty rm).getLsbD 4 = true := by
  simp only [encDpShReg, bitAt, BitVec.getLsbD_or, getLsbD_atBit]
  simp

theorem bit7_encDpShReg : (encDpShReg c op s rn rd rs ty rm).getLsbD 7 = false := by
  simp only [encDpShReg, bitAt, BitVec.getLsbD_or, getLsbD_atBit]
  simp

end

/-! ## `encLsm` -/

section
variable (c : Cond) (p u s w l : Bool) (rn : RegIdx) (list : BitVec 16)

theorem condF_encLsm : condF (encLsm c p u s w l rn list) = c.code := by
  apply BitVec.eq_of_getLsbD_eq
  intro i hi
  simp only [condF, encLsm, bitAt, BitVec.getLsbD_extractLsb', BitVec.getLsbD_or, getLsbD_atBit]
  interval_cases i <;> simp

theorem groupF_encLsm : groupF (encLsm c p u s w l rn list) = 4 := by
  apply BitVec.eq_of_getLsbD_eq
  intro i hi
  simp only [groupF, encLsm, bitAt, BitVec.getLsbD_extractLsb', BitVec.getLsbD_or, getLsbD_atBit]
  interval_cases i <;> simp

theorem rnF_encLsm : rnF (encLsm c p u s w l rn list) = rn := by
  apply BitVec.eq_of_getLsbD_eq
  intro i hi
  simp only [rnF, encLsm, bitAt, BitVec.getLsbD_extractLsb', BitVec.getLsbD_or, getLsbD_atBit]
  interval_cases i <;> simp

theorem listF_encLsm : listF (encLsm c p u s w l rn list) = list := by
  apply BitVec.eq_of_getLsbD_eq
  intro i hi
  simp only [listF, encLsm, bitAt, BitVec.getLsbD_extractLsb', BitVec.getLsbD_or, getLsbD_atBit]
  interval_cases i <;> simp

theorem bit24_encLsm : (encLsm c p u s w l rn list).getLsbD 24 = p := by
  simp only [encLsm, bitAt, BitVec.getLsbD_or, getLsbD_atBit]
  simp

theorem bit23_encLsm : (encLsm c p u s w l rn list).getLsbD 23 = u := by
  simp only [encLsm, bitAt, BitVec.getLsbD_or, getLsbD_atBit]
  simp

theorem bit22_encLsm : (encLsm c p u s w l rn list).getLsbD 22 = s := by
  simp only [encLsm, bitAt, BitVec.getLsbD_or, getLsbD_atBit]
  simp

theorem bit21_encLsm : (encLsm c p u s w l rn list).getLsbD 21 = w := by
  simp only [encLsm, bitAt, BitVec.getLsbD_or, getLsbD_atBit]
  simp

theorem bit20_encLsm : (encLsm c p u s w l rn list).getLsbD 20 = l := by
  simp only [encLsm, bitAt, BitVec.getLsbD_or, getLsbD_atBit]
  simp

theorem bit15_encLsm : (encLsm c p u s w l rn list).getLsbD 15 = list.getLsbD 15 := by
  simp only [encLsm, bitAt, BitVec.getLsbD_or, getLsbD_atBit]
  simp

end

/-! ## `mrs` -/

section
variable (c : Cond) (psr : Psr) (rd : RegIdx)

theorem encode_mrs : encode (.mrs c psr rd) = atBit 4 c.code 28 ||| atBit 5 0b00010 23 ||| atBit 1 psr.code 22 ||| atBit 4 0b1111 16 ||| atBit 4 rd 12 := rfl

theorem condF_mrs : condF (encode (.mrs c psr rd)) = c.code := by
  apply BitVec.eq_of_getLsbD_eq
  intro i hi
  simp only [condF, encode_mrs, BitVec.getLsbD_extractLsb', BitVec.getLsbD_or, getLsbD_atBit]
  interval_cases i <;> simp

theorem groupF_mrs : groupF (encode (.mrs c psr rd)) = 0 := by
  apply BitVec.eq_of_getLsbD_eq
  intro i hi
  simp only [groupF, encode_mrs, BitVec.getLsbD_extractLsb', BitVec.getLsbD_or, getLsbD_atBit]
  interval_cases i <;> simp

theorem selF_mrs : selF (encode (.mrs c psr rd)) = 0 := by
  apply BitVec.eq_of_getLsbD_eq
  intro i hi
  simp only [selF, encode_mrs, BitVec.getLsbD_extractLsb', BitVec.getLsbD_or, getLsbD_atBit]
  interval_cases i <;> simp

theorem rdF_mrs : rdF (encode (.mrs c psr rd)) = rd := by
  apply BitVec.eq_of_getLsbD_eq
  intro i hi
  simp only [rdF, encode_mrs, BitVec.getLsbD_extractLsb', BitVec.getLsbD_or, getLsbD_atBit]
  interval_cases i <;> simp

theorem psrF_mrs : psrF (encode (.mrs c psr rd)) = psr := by
  apply psrF_of_bit
  simp only [encode_mrs, BitVec.getLsbD_or, getLsbD_atBit]
  simp

theorem bit24_mrs : (encode (.mrs c psr rd)).getLsbD 24 = true := by
  simp only [encode_mrs, BitVec.getLsbD_or, getLsbD_atBit]
  simp

theorem bit23_mrs : (encode (.mrs c psr rd)).getLsbD 23 = false := by
  simp only [encode_mrs, BitVec.getLsbD_or, getLsbD_atBit]
  simp

theorem bit21_mrs : (encode (.mrs c psr rd)).getLsbD 21 = false := by
  simp only [encode_mrs, BitVec.getLsbD_or, getLsbD_atBit]
  simp

theorem bit20_mrs : (encode (.mrs c psr rd)).getLsbD 20 = false := by
  simp only [encode_mrs, BitVec.getLsbD_or, getLsbD_atBit]
  simp

theorem bit7_mrs : (encode (.mrs c psr rd)).getLsbD 7 = false := by
  simp only [encode_mrs, BitVec.getLsbD_or, getLsbD_atBit]
  simp

theorem bit4_mrs : (encode (.mrs c psr rd)).getLsbD 4 = false := by
  simp only [encode_mrs, BitVec.getLsbD_or, getLsbD_atBit]
  simp

end

/-! ## `msrReg` -/

section
variable (c : Cond) (psr : Psr) (mask : BitVec 4) (rm : RegIdx)

theorem encode_msrReg : encode (.msrReg c psr mask rm) = atBit 4 c.code 28 ||| atBit 5 0b00010 23 ||| atBit 1 psr.code 22 ||| bitAt true 21 |||
      atBit 4 mask 16 ||| atBit 4 0b1111 12 ||| atBit 4 rm 0 := rfl

theorem condF_msrReg : condF (encode (.msrReg c psr mask rm)) = c.code := by
  apply BitVec.eq_of_getLsbD_eq
  intro i hi
  simp only [condF, encode_msrReg, bitAt, BitVec.getLsbD_extractLsb', BitVec.getLsbD_or, getLsbD_atBit]
  interval_cases i <;> simp

theorem groupF_msrReg : groupF (encode (.msrReg c psr mask rm)) = 0 := by
  apply BitVec.eq_of_getLsbD_eq
  intro i hi
  simp only [groupF, encode_msrReg, bitAt, BitVec.getLsbD_extractLsb', BitVec.getLsbD_or, getLsbD_atBit]
  interval_cases i <;> simp

theorem selF_msrReg : selF (encode (.msrReg c psr mask rm)) = 0 := by
  apply BitVec.eq_of_getLsbD_eq
  intro i hi
  simp only [selF, encode_msrReg, bitAt, BitVec.getLsbD_extractLsb', BitVec.getLsbD_or, getLsbD_atBit]
  interval_cases i <;> simp

theorem rmF_msrReg : rmF (encode (.msrReg c psr mask rm)) = rm := by
  apply BitVec.eq_of_getLsbD_eq
  intro i hi
  simp only [rmF, encode_msrReg, bitAt, BitVec.getLsbD_extractLsb', BitVec.getLsbD_or, getLsbD_atBit]
  interval_cases i <;> simp

theorem maskF_msrReg : maskF (encode (.msrReg c psr mask rm)) = mask := by
  apply BitVec.eq_of_getLsbD_eq
  intro i hi
  simp only [maskF, encode_msrReg, bitAt, BitVec.getLsbD_extractLsb', BitVec.getLsbD_or, getLsbD_atBit]
  interval_cases i <;> simp

theorem psrF_msrReg : psrF (encode (.msrReg c psr mask rm)) = psr := by
  apply psrF_of_bit
  simp only [encode_msrReg, bitAt, BitVec.getLsbD_or, getLsbD_atBit]
  simp

theorem bit24_msrReg : (encode (.msrReg c psr mask rm)).getLsbD 24 = true := by
  simp only [encode_msrReg, bitAt, BitVec.getLsbD_or, getLsbD_atBit]
  simp

theorem bit23_msrReg : (encode (.msrReg c psr mask rm)).getLsbD 23 = false := by
  simp only [encode_msrReg, bitAt, BitVec.getLsbD_or, getLsbD_atBit]
  simp

theorem bit21_msrReg : (encode (.msrReg c psr mask rm)).getLsbD 21 = true := by
  simp only [encode_msrReg, bitAt, BitVec.getLsbD_or, getLsbD_atBit]
  simp

theorem bit20_msrReg : (encode (.msrReg c psr mask rm)).getLsbD 20 = false := by
  simp only [encode_msrReg, bitAt, BitVec.getLsbD_or, getLsbD_atBit]
  simp

theorem bit7_msrReg : (encode (.msrReg c psr mask rm)).getLsbD 7 = false := by
  simp only [encode_msrReg, bitAt, BitVec.getLsbD_or, getLsbD_atBit]
  simp

theorem bit4_msrReg : (encode (.msrReg c psr mask rm)).getLsbD 4 = false := by
  simp only [encode_msrReg, bitAt, BitVec.getLsbD_or, getLsbD_atBit]
  simp

end

/-! ## `msrImm` -/

section
variable (c : Cond) (psr : Psr) (mask rot : BitVec 4) (imm8 : BitVec 8)

theorem encode_msrImm : encode (.msrImm c psr mask rot imm8) = atBit 4 c.code 28 ||| atBit 5 0b00110 23 ||| atBit 1 psr.code 22 ||| bitAt true 21 |||
      atBit 4 mask 16 ||| atBit 4 0b1111 12 ||| atBit 4 rot 8 ||| atBit 8 imm8 0 := rfl

theorem condF_msrImm : condF (encode (.msrImm c psr mask rot imm8)) = c.code := by
  apply BitVec.eq_of_getLsbD_eq
  intro i hi
  simp only [condF, encode_msrImm, bitAt, BitVec.getLsbD_extractLsb', BitVec.getLsbD_or, getLsbD_atBit]
  interval_cases i <;> simp

theorem groupF_msrImm : groupF (encode (.msrImm c psr mask rot imm8)) = 1 := by
  apply BitVec.eq_of_getLsbD_eq
  intro i hi
  simp only [groupF, encode_msrImm, bitAt, BitVec.getLsbD_extractLsb', BitVec.getLsbD_or, getLsbD_atBit]
  interval_cases i <;> simp

theorem maskF_msrImm : maskF (encode (.msrImm c psr mask rot imm8)) = mask := by
  apply BitVec.eq_of_getLsbD_eq
  intro i hi
  simp only [maskF, encode_msrImm, bitAt, BitVec.getLsbD_extractLsb', BitVec.getLsbD_or, getLsbD_atBit]
  interval_cases i <;> simp

theorem rotF_msrImm : rotF (encode (.msrImm c psr mask rot imm8)) = rot := by
  apply BitVec.eq_of_getLsbD_eq
  intro i hi
  simp only [rotF, encode_msrImm, bitAt, BitVec.getLsbD_extractLsb', BitVec.getLsbD_or, getLsbD_atBit]
  interval_cases i <;> simp

theorem imm8F_msrImm : imm8F (encode (.msrImm c psr mask rot imm8)) = imm8 := by
  apply BitVec.eq_of_getLsbD_eq
  intro i hi
  simp only [imm8F, encode_msrImm, bitAt, BitVec.getLsbD_extractLsb', BitVec.getLsbD_or, getLsbD_atBit]
  interval_cases i <;> simp

theorem psrF_msrImm : psrF (encode (.msrImm c psr mask rot imm8)) = psr := by
  apply psrF_of_bit
  simp only [encode_msrImm, bitAt, BitVec.getLsbD_or, getLsbD_atBit]
  simp

theorem bit24_msrImm : (encode (.msrImm c psr mask rot imm8)).getLsbD 24 = true := by
  simp only [encode_msrImm, bitAt, BitVec.getLsbD_or, getLsbD_atBit]
  simp

theorem bit23_msrImm : (encode (.msrImm c psr mask rot imm8)).getLsbD 23 = false := by
  simp only [encode_msrImm, bitAt, BitVec.getLsbD_or, getLsbD_atBit]
  simp

theorem bit21_msrImm : (encode (.msrImm c psr mask rot imm8)).getLsbD 21 = true := by
  simp only [encode_msrImm, bitAt, BitVec.getLsbD_or, getLsbD_atBit]
  simp

theorem bit20_msrImm : (encode (.msrImm c psr mask rot imm8)).getLsbD 20 = false := by
  simp only [encode_msrImm, bitAt, BitVec.getLsbD_or, getLsbD_atBit]
  simp

end

/-! ## `bx` -/

section
variable (c : Cond) (rm : RegIdx)

theorem encode_bx : encode (.bx c rm) = atBit 4 c.code 28 ||| atBit 24 0x12FFF1 4 ||| atBit 4 rm 0 := rfl

theorem condF_bx : condF (encode (.bx c rm)) = c.code := by
  apply BitVec.eq_of_getLsbD_eq
  intro i hi
  simp only [condF, encode_bx, BitVec.getLsbD_extractLsb', BitVec.getLsbD_or, getLsbD_atBit]
  interval_cases i <;> simp

theorem groupF_bx : groupF (encode (.bx c rm)) = 0 := by
  apply BitVec.eq_of_getLsbD_eq
  intro i hi
  simp only [groupF, encode_bx, BitVec.getLsbD_extractLsb', BitVec.getLsbD_or, getLsbD_atBit]
  interval_cases i <;> simp

theorem selF_bx : selF (encode (.bx c rm)) = 1 := by
  apply BitVec.eq_of_getLsbD_eq
  intro i hi
  simp only [selF, encode_bx, BitVec.getLsbD_extractLsb', BitVec.getLsbD_or, getLsbD_atBit]
  interval_cases i <;> simp

theorem miscOpF_bx : miscOpF (encode (.bx c rm)) = 1 := by
  apply BitVec.eq_of_getLsbD_eq
  intro i hi
  simp only [miscOpF, encode_bx, BitVec.getLsbD_extractLsb', BitVec.getLsbD_or, getLsbD_atBit]
  interval_cases i <;> simp

theorem rmF_bx : rmF (encode (.bx c rm)) = rm := by
  apply BitVec.eq_of_getLsbD_eq
  intro i hi
  simp only [rmF, encode_bx, BitVec.getLsbD_extractLsb', BitVec.getLsbD_or, getLsbD_atBit]
  interval_cases i <;> simp

theorem bit24_bx : (encode (.bx c rm)).getLsbD 24 = true := by
  simp only [encode_bx, BitVec.getLsbD_or, getLsbD_atBit]
  simp

theorem bit23_bx : (encode (.bx c rm)).getLsbD 23 = false := by
  simp only [encode_bx, BitVec.getLsbD_or, getLsbD_atBit]
  simp

theorem bit20_bx : (encode (.bx c rm)).getLsbD 20 = false := by
  simp only [encode_bx, BitVec.getLsbD_or, getLsbD_atBit]
  simp

theorem bit7_bx : (encode (.bx c rm)).getLsbD 7 = false := by
  simp only [encode_bx, BitVec.getLsbD_or, getLsbD_atBit]
  simp

theorem bit4_bx : (encode (.bx c rm)).getLsbD 4 = true := by
  simp only [encode_bx, BitVec.getLsbD_or, getLsbD_atBit]
  simp

end

/-! ## `blxReg` -/

section
variable (c : Cond) (rm : RegIdx)

theorem encode_blxReg : encode (.blxReg c rm) = atBit 4 c.code 28 ||| atBit 24 0x12FFF3 4 ||| atBit 4 rm 0 := rfl

theorem condF_blxReg : condF (encode (.blxReg c rm)) = c.code := by
  apply BitVec.eq_of_getLsbD_eq
  intro i hi
  simp only [condF, encode_blxReg, BitVec.getLsbD_extractLsb', BitVec.getLsbD_or, getLsbD_atBit]
  interval_cases i <;> simp

theorem groupF_blxReg : groupF (encode (.blxReg c rm)) = 0 := by
  apply BitVec.eq_of_getLsbD_eq
  intro i hi
  simp only [groupF, encode_blxReg, BitVec.getLsbD_extractLsb', BitVec.getLsbD_or, getLsbD_atBit]
  interval_cases i <;> simp

theorem selF_blxReg : selF (encode (.blxReg c rm)) = 3 := by
  apply BitVec.eq_of_getLsbD_eq
  intro i hi
  simp only [selF, encode_blxReg, BitVec.getLsbD_extractLsb', BitVec.getLsbD_or, getLsbD_atBit]
  interval_cases i <;> simp

theorem miscOpF_blxReg : miscOpF (encode (.blxReg c rm)) = 1 := by
  apply BitVec.eq_of_getLsbD_eq
  intro i hi
  simp only [miscOpF, encode_blxReg, BitVec.getLsbD_extractLsb', BitVec.getLsbD_or, getLsbD_atBit]
  interval_cases i <;> simp

theorem rmF_blxReg : rmF (encode (.blxReg c rm)) = rm := by
  apply BitVec.eq_of_getLsbD_eq
  intro i hi
  simp only [rmF, encode_blxReg, BitVec.getLsbD_extractLsb', BitVec.getLsbD_or, getLsbD_atBit]
  interval_cases i <;> simp

theorem bit24_blxReg : (encode (.blxReg c rm)).getLsbD 24 = true := by
  simp only [encode_blxReg, BitVec.getLsbD_or, getLsbD_atBit]
  simp

theorem bit23_blxReg : (encode (.blxReg c rm)).getLsbD 23 = false := by
  simp only [encode_blxReg, BitVec.getLsbD_or, getLsbD_atBit]
  simp

theorem bit20_blxReg : (encode (.blxReg c rm)).getLsbD 20 = false := by
  simp only [encode_blxReg, BitVec.getLsbD_or, getLsbD_atBit]
  simp

theorem bit7_blxReg : (encode (.blxReg c rm)).getLsbD 7 = false := by
  simp only [encode_blxReg, BitVec.getLsbD_or, getLsbD_atBit]
  simp

theorem bit4_blxReg : (encode (.blxReg c rm)).getLsbD 4 = true := by
  simp only [encode_blxReg, BitVec.getLsbD_or, getLsbD_atBit]
  simp

end

/-! ## `clz` -/

section
variable (c : Cond) (rd rm : RegIdx)

theorem encode_clz : encode (.clz c rd rm) = atBit 4 c.code 28 ||| atBit 12 0x16F 16 ||| atBit 4 rd 12 ||| atBit 8 0xF1 4 ||| atBit 4 rm 0 := rfl

theorem condF_clz : condF (encode (.clz c rd rm)) = c.code := by
  apply BitVec.eq_of_getLsbD_eq
  intro i hi
  simp only [condF, encode_clz, BitVec.getLsbD_extractLsb', BitVec.getLsbD_or, getLsbD_atBit]
  interval_cases i <;> simp

theorem groupF_clz : groupF (encode (.clz c rd rm)) = 0 := by
  apply BitVec.eq_of_getLsbD_eq
  intro i hi
  simp only [groupF, encode_clz, BitVec.getLsbD_extractLsb', BitVec.getLsbD_or, getLsbD_atBit]
  interval_cases i <;> simp

theorem selF_clz : selF (encode (.clz c rd rm)) = 1 := by
  apply BitVec.eq_of_getLsbD_eq
  intro i hi
  simp only [selF, encode_clz, BitVec.getLsbD_extractLsb', BitVec.getLsbD_or, getLsbD_atBit]
  interval_cases i <;> simp

theorem miscOpF_clz : miscOpF (encode (.clz c rd rm)) = 3 := by
  apply BitVec.eq_of_getLsbD_eq
  intro i hi
  simp only [miscOpF, encode_clz, BitVec.getLsbD_extractLsb', BitVec.getLsbD_or, getLsbD_atBit]
  interval_cases i <;> simp

theorem rdF_clz : rdF (encode (.clz c rd rm)) = rd := by
  apply BitVec.eq_of_getLsbD_eq
  intro i hi
  simp only [rdF, encode_clz, BitVec.getLsbD_extractLsb', BitVec.getLsbD_or, getLsbD_atBit]
  interval_cases i <;> simp

theorem rmF_clz : rmF (encode (.clz c rd rm)) = rm := by
  apply BitVec.eq_of_getLsbD_eq
  intro i hi
  simp only [rmF, encode_clz, BitVec.getLsbD_extractLsb', BitVec.getLsbD_or, getLsbD_atBit]
  interval_cases i <;> simp

theorem bit24_clz : (encode (.clz c rd rm)).getLsbD 24 = true := by
  simp only [encode_clz, BitVec.getLsbD_or, getLsbD_atBit]
  simp

theorem bit23_clz : (encode (.clz c rd rm)).getLsbD 23 = false := by
  simp only [encode_clz, BitVec.getLsbD_or, getLsbD_atBit]
  simp

theorem bit20_clz : (encode (.clz c rd rm)).getLsbD 20 = false := by
  simp only [encode_clz, BitVec.getLsbD_or, getLsbD_atBit]
  simp

theorem bit7_clz : (encode (.clz c rd rm)).getLsbD 7 = false := by
  simp only [encode_clz, BitVec.getLsbD_or, getLsbD_atBit]
  simp

theorem bit4_clz : (encode (.clz c rd rm)).getLsbD 4 = true := by
  simp only [encode_clz, BitVec.getLsbD_or, getLsbD_atBit]
  simp

end

/-! ## `b` -/

section
variable (c : Cond) (imm24 : BitVec 24)

theorem encode_b : encode (.b c imm24) = atBit 4 c.code 28 ||| atBit 4 0b1010 24 ||| atBit 24 imm24 0 := rfl

theorem condF_b : condF (encode (.b c imm24)) = c.code := by
  apply BitVec.eq_of_getLsbD_eq
  intro i hi
  simp only [condF, encode_b, BitVec.getLsbD_extractLsb', BitVec.getLsbD_or, getLsbD_atBit]
  interval_cases i <;> simp

theorem groupF_b : groupF (encode (.b c imm24)) = 5 := by
  apply BitVec.eq_of_getLsbD_eq
  intro i hi
  simp only [groupF, encode_b, BitVec.getLsbD_extractLsb', BitVec.getLsbD_or, getLsbD_atBit]
  interval_cases i <;> simp

theorem imm24F_b : imm24F (encode (.b c imm24)) = imm24 := by
  apply BitVec.eq_of_getLsbD_eq
  intro i hi
  simp only [imm24F, encode_b, BitVec.getLsbD_extractLsb', BitVec.getLsbD_or, getLsbD_atBit]
  interval_cases i <;> simp

theorem bit24_b : (encode (.b c imm24)).getLsbD 24 = false := by
  simp only [encode_b, BitVec.getLsbD_or, getLsbD_atBit]
  simp

end

/-! ## `bl` -/

section
variable (c : Cond) (imm24 : BitVec 24)

theorem encode_bl : encode (.bl c imm24) = atBit 4 c.code 28 ||| atBit 4 0b1011 24 ||| atBit 24 imm24 0 := rfl

theorem condF_bl : condF (encode (.bl c imm24)) = c.code := by
  apply BitVec.eq_of_getLsbD_eq
  intro i hi
  simp only [condF, encode_bl, BitVec.getLsbD_extractLsb', BitVec.getLsbD_or, getLsbD_atBit]
  interval_cases i <;> simp

theorem groupF_bl : groupF (encode (.bl c imm24)) = 5 := by
  apply BitVec.eq_of_getLsbD_eq
  intro i hi
  simp only [groupF, encode_bl, BitVec.getLsbD_extractLsb', BitVec.getLsbD_or, getLsbD_atBit]
  interval_cases i <;> simp

theorem imm24F_bl : imm24F (encode (.bl c imm24)) = imm24 := by
  apply BitVec.eq_of_getLsbD_eq
  intro i hi
  simp only [imm24F, encode_bl, BitVec.getLsbD_extractLsb', BitVec.getLsbD_or, getLsbD_atBit]
  interval_cases i <;> simp

theorem bit24_bl : (encode (.bl c imm24)).getLsbD 24 = true := by
  simp only [encode_bl, BitVec.getLsbD_or, getLsbD_atBit]
  simp

end

/-! ## `blxImm` -/

section
variable (h : Bool) (imm24 : BitVec 24)

theorem encode_blxImm : encode (.blxImm h imm24) = atBit 4 0b1111 28 ||| atBit 3 0b101 25 ||| bitAt h 24 ||| atBit 24 imm24 0 := rfl

theorem condF_blxImm : condF (encode (.blxImm h imm24)) = 0b1111 := by
  apply BitVec.eq_of_getLsbD_eq
  intro i hi
  simp only [condF, encode_blxImm, bitAt, BitVec.getLsbD_extractLsb', BitVec.getLsbD_or, getLsbD_atBit]
  interval_cases i <;> simp

theorem groupF_blxImm : groupF (encode (.blxImm h imm24)) = 5 := by
  apply BitVec.eq_of_getLsbD_eq
  intro i hi
  simp only [groupF, encode_blxImm, bitAt, BitVec.getLsbD_extractLsb', BitVec.getLsbD_or, getLsbD_atBit]
  interval_cases i <;> simp

theorem imm24F_blxImm : imm24F (encode (.blxImm h imm24)) = imm24 := by
  apply BitVec.eq_of_getLsbD_eq
  intro i hi
  simp only [imm24F, encode_blxImm, bitAt, BitVec.getLsbD_extractLsb', BitVec.getLsbD_or, getLsbD_atBit]
  interval_cases i <;> simp

theorem bit24_blxImm : (encode (.blxImm h imm24)).getLsbD 24 = h := by
  simp only [encode_blxImm, bitAt, BitVec.getLsbD_or, getLsbD_atBit]
  simp

end

/-! ## `encClass` -/

section
variable (c : Cond) (rest : BitVec 28)

theorem condF_encClass : condF (encClass c rest) = c.code := by
  apply BitVec.eq_of_getLsbD_eq
  intro i hi
  simp only [condF, encClass, BitVec.getLsbD_extractLsb', BitVec.getLsbD_or, getLsbD_atBit]
  interval_cases i <;> simp

end

end Sys2Proof
end

