-- ==== Sys2Proof/Laws/PerInstr.lean ====
section
/-! SUPPORT. One statement for all instructions, made per instruction: bits 31:28 of an instruction's word are its condition's code,
1111 for BLX (immediate) (`30_encoding.md` R91, R103). -/

namespace Sys2Proof

/-- The code that stands in bits 31:28 of an instruction's word (R91, R150; 1111 for the unconditional space, R103). -/
def Instr.condCode : Instr → BitVec 4
  | .andImm c .. => c.code
  | .andShImm c .. => c.code
  | .andShReg c .. => c.code
  | .eorImm c .. => c.code
  | .eorShImm c .. => c.code
  | .eorShReg c .. => c.code
  | .subImm c .. => c.code
  | .subShImm c .. => c.code
  | .subShReg c .. => c.code
  | .rsbImm c .. => c.code
  | .rsbShImm c .. => c.code
  | .rsbShReg c .. => c.code
  | .addImm c .. => c.code
  | .addShImm c .. => c.code
  | .addShReg c .. => c.code
  | .adcImm c .. => c.code
  | .adcShImm c .. => c.code
  | .adcShReg c .. => c.code
  | .sbcImm c .. => c.code
  | .sbcShImm c .. => c.code
  | .sbcShReg c .. => c.code
  | .rscImm c .. => c.code
  | .rscShImm c .. => c.code
  | .rscShReg c .. => c.code
  | .tstImm c .. => c.code
  | .tstShImm c .. => c.code
  | .tstShReg c .. => c.code
  | .teqImm c .. => c.code
  | .teqShImm c .. => c.code
  | .teqShReg c .. => c.code
  | .cmpImm c .. => c.code
  | .cmpShImm c .. => c.code
  | .cmpShReg c .. => c.code
  | .cmnImm c .. => c.code
  | .cmnShImm c .. => c.code
  | .cmnShReg c .. => c.code
  | .orrImm c .. => c.code
  | .orrShImm c .. => c.code
  | .orrShReg c .. => c.code
  | .movImm c .. => c.code
  | .movShImm c .. => c.code
  | .movShReg c .. => c.code
  | .bicImm c .. => c.code
  | .bicShImm c .. => c.code
  | .bicShReg c .. => c.code
  | .mvnImm c .. => c.code
  | .mvnShImm c .. => c.code
  | .mvnShReg c .. => c.code
  | .mrs c .. => c.code
  | .msrReg c .. => c.code
  | .msrImm c .. => c.code
  | .bx c .. => c.code
  | .blxReg c .. => c.code
  | .clz c .. => c.code
  | .qadd c .. => c.code
  | .qsub c .. => c.code
  | .qdadd c .. => c.code
  | .qdsub c .. => c.code
  | .smulClass c .. => c.code
  | .mulClass c .. => c.code
  | .xlsClassH c .. => c.code
  | .xlsClassSb c .. => c.code
  | .xlsClassSh c .. => c.code
  | .lsImmClass c .. => c.code
  | .lsRegClass c .. => c.code
  | .mediaClass c .. => c.code
  | .ldm c .. => c.code
  | .ldmUser c .. => c.code
  | .ldmRet c .. => c.code
  | .stm c .. => c.code
  | .stmUser c .. => c.code
  | .stmSPc c .. => c.code
  | .b c .. => c.code
  | .bl c .. => c.code
  | .cpLsClass c .. => c.code
  | .cpOpClass c .. => c.code
  | .swi c .. => c.code
  | .blxImm .. => 0b1111

/-- The family's statement: `encode` writes the condition's code into bits 31:28. -/
def Laws.EncodesCondition.Statement (i : Instr) : Prop := condF (encode i) = i.condCode

namespace Laws.EncodesCondition

theorem andImm (c : Cond) (s : Bool) (rn rd : RegIdx) (rot : BitVec 4) (imm8 : BitVec 8) : Statement (.andImm c s rn rd rot imm8) :=
  condF_encDpImm _ _ _ _ _ _ _
theorem andShImm (c : Cond) (s : Bool) (rn rd : RegIdx) (amt : BitVec 5) (ty : ShiftType) (rm : RegIdx) : Statement (.andShImm c s rn rd amt ty rm) :=
  condF_encDpShImm _ _ _ _ _ _ _ _
theorem andShReg (c : Cond) (s : Bool) (rn rd : RegIdx) (rs : RegIdx) (ty : ShiftType) (rm : RegIdx) : Statement (.andShReg c s rn rd rs ty rm) :=
  condF_encDpShReg _ _ _ _ _ _ _ _
theorem eorImm (c : Cond) (s : Bool) (rn rd : RegIdx) (rot : BitVec 4) (imm8 : BitVec 8) : Statement (.eorImm c s rn rd rot imm8) :=
  condF_encDpImm _ _ _ _ _ _ _
theorem eorShImm (c : Cond) (s : Bool) (rn rd : RegIdx) (amt : BitVec 5) (ty : ShiftType) (rm : RegIdx) : Statement (.eorShImm c s rn rd amt ty rm) :=
  condF_encDpShImm _ _ _ _ _ _ _ _
theorem eorShReg (c : Cond) (s : Bool) (rn rd : RegIdx) (rs : RegIdx) (ty : ShiftType) (rm : RegIdx) : Statement (.eorShReg c s rn rd rs ty rm) :=
  condF_encDpShReg _ _ _ _ _ _ _ _
theorem subImm (c : Cond) (s : Bool) (rn rd : RegIdx) (rot : BitVec 4) (imm8 : BitVec 8) : Statement (.subImm c s rn rd rot imm8) :=
  condF_encDpImm _ _ _ _ _ _ _
theorem subShImm (c : Cond) (s : Bool) (rn rd : RegIdx) (amt : BitVec 5) (ty : ShiftType) (rm : RegIdx) : Statement (.subShImm c s rn rd amt ty rm) :=
  condF_encDpShImm _ _ _ _ _ _ _ _
theorem subShReg (c : Cond) (s : Bool) (rn rd : RegIdx) (rs : RegIdx) (ty : ShiftType) (rm : RegIdx) : Statement (.subShReg c s rn rd rs ty rm) :=
  condF_encDpShReg _ _ _ _ _ _ _ _
theorem rsbImm (c : Cond) (s : Bool) (rn rd : RegIdx) (rot : BitVec 4) (imm8 : BitVec 8) : Statement (.rsbImm c s rn rd rot imm8) :=
  condF_encDpImm _ _ _ _ _ _ _
theorem rsbShImm (c : Cond) (s : Bool) (rn rd : RegIdx) (amt : BitVec 5) (ty : ShiftType) (rm : RegIdx) : Statement (.rsbShImm c s rn rd amt ty rm) :=
  condF_encDpShImm _ _ _ _ _ _ _ _
theorem rsbShReg (c : Cond) (s : Bool) (rn rd : RegIdx) (rs : RegIdx) (ty : ShiftType) (rm : RegIdx) : Statement (.rsbShReg c s rn rd rs ty rm) :=
  condF_encDpShReg _ _ _ _ _ _ _ _
theorem addImm (c : Cond) (s : Bool) (rn rd : RegIdx) (rot : BitVec 4) (imm8 : BitVec 8) : Statement (.addImm c s rn rd rot imm8) :=
  condF_encDpImm _ _ _ _ _ _ _
theorem addShImm (c : Cond) (s : Bool) (rn rd : RegIdx) (amt : BitVec 5) (ty : ShiftType) (rm : RegIdx) : Statement (.addShImm c s rn rd amt ty rm) :=
  condF_encDpShImm _ _ _ _ _ _ _ _
theorem addShReg (c : Cond) (s : Bool) (rn rd : RegIdx) (rs : RegIdx) (ty : ShiftType) (rm : RegIdx) : Statement (.addShReg c s rn rd rs ty rm) :=
  condF_encDpShReg _ _ _ _ _ _ _ _
theorem adcImm (c : Cond) (s : Bool) (rn rd : RegIdx) (rot : BitVec 4) (imm8 : BitVec 8) : Statement (.adcImm c s rn rd rot imm8) :=
  condF_encDpImm _ _ _ _ _ _ _
theorem adcShImm (c : Cond) (s : Bool) (rn rd : RegIdx) (amt : BitVec 5) (ty : ShiftType) (rm : RegIdx) : Statement (.adcShImm c s rn rd amt ty rm) :=
  condF_encDpShImm _ _ _ _ _ _ _ _
theorem adcShReg (c : Cond) (s : Bool) (rn rd : RegIdx) (rs : RegIdx) (ty : ShiftType) (rm : RegIdx) : Statement (.adcShReg c s rn rd rs ty rm) :=
  condF_encDpShReg _ _ _ _ _ _ _ _
theorem sbcImm (c : Cond) (s : Bool) (rn rd : RegIdx) (rot : BitVec 4) (imm8 : BitVec 8) : Statement (.sbcImm c s rn rd rot imm8) :=
  condF_encDpImm _ _ _ _ _ _ _
theorem sbcShImm (c : Cond) (s : Bool) (rn rd : RegIdx) (amt : BitVec 5) (ty : ShiftType) (rm : RegIdx) : Statement (.sbcShImm c s rn rd amt ty rm) :=
  condF_encDpShImm _ _ _ _ _ _ _ _
theorem sbcShReg (c : Cond) (s : Bool) (rn rd : RegIdx) (rs : RegIdx) (ty : ShiftType) (rm : RegIdx) : Statement (.sbcShReg c s rn rd rs ty rm) :=
  condF_encDpShReg _ _ _ _ _ _ _ _
theorem rscImm (c : Cond) (s : Bool) (rn rd : RegIdx) (rot : BitVec 4) (imm8 : BitVec 8) : Statement (.rscImm c s rn rd rot imm8) :=
  condF_encDpImm _ _ _ _ _ _ _
theorem rscShImm (c : Cond) (s : Bool) (rn rd : RegIdx) (amt : BitVec 5) (ty : ShiftType) (rm : RegIdx) : Statement (.rscShImm c s rn rd amt ty rm) :=
  condF_encDpShImm _ _ _ _ _ _ _ _
theorem rscShReg (c : Cond) (s : Bool) (rn rd : RegIdx) (rs : RegIdx) (ty : ShiftType) (rm : RegIdx) : Statement (.rscShReg c s rn rd rs ty rm) :=
  condF_encDpShReg _ _ _ _ _ _ _ _
theorem tstImm (c : Cond) (rn : RegIdx) (rot : BitVec 4) (imm8 : BitVec 8) : Statement (.tstImm c rn rot imm8) :=
  condF_encDpImm _ _ _ _ _ _ _
theorem tstShImm (c : Cond) (rn : RegIdx) (amt : BitVec 5) (ty : ShiftType) (rm : RegIdx) : Statement (.tstShImm c rn amt ty rm) :=
  condF_encDpShImm _ _ _ _ _ _ _ _
theorem tstShReg (c : Cond) (rn : RegIdx) (rs : RegIdx) (ty : ShiftType) (rm : RegIdx) : Statement (.tstShReg c rn rs ty rm) :=
  condF_encDpShReg _ _ _ _ _ _ _ _
theorem teqImm (c : Cond) (rn : RegIdx) (rot : BitVec 4) (imm8 : BitVec 8) : Statement (.teqImm c rn rot imm8) :=
  condF_encDpImm _ _ _ _ _ _ _
theorem teqShImm (c : Cond) (rn : RegIdx) (amt : BitVec 5) (ty : ShiftType) (rm : RegIdx) : Statement (.teqShImm c rn amt ty rm) :=
  condF_encDpShImm _ _ _ _ _ _ _ _
theorem teqShReg (c : Cond) (rn : RegIdx) (rs : RegIdx) (ty : ShiftType) (rm : RegIdx) : Statement (.teqShReg c rn rs ty rm) :=
  condF_encDpShReg _ _ _ _ _ _ _ _
theorem cmpImm (c : Cond) (rn : RegIdx) (rot : BitVec 4) (imm8 : BitVec 8) : Statement (.cmpImm c rn rot imm8) :=
  condF_encDpImm _ _ _ _ _ _ _
theorem cmpShImm (c : Cond) (rn : RegIdx) (amt : BitVec 5) (ty : ShiftType) (rm : RegIdx) : Statement (.cmpShImm c rn amt ty rm) :=
  condF_encDpShImm _ _ _ _ _ _ _ _
theorem cmpShReg (c : Cond) (rn : RegIdx) (rs : RegIdx) (ty : ShiftType) (rm : RegIdx) : Statement (.cmpShReg c rn rs ty rm) :=
  condF_encDpShReg _ _ _ _ _ _ _ _
theorem cmnImm (c : Cond) (rn : RegIdx) (rot : BitVec 4) (imm8 : BitVec 8) : Statement (.cmnImm c rn rot imm8) :=
  condF_encDpImm _ _ _ _ _ _ _
theorem cmnShImm (c : Cond) (rn : RegIdx) (amt : BitVec 5) (ty : ShiftType) (rm : RegIdx) : Statement (.cmnShImm c rn amt ty rm) :=
  condF_encDpShImm _ _ _ _ _ _ _ _
theorem cmnShReg (c : Cond) (rn : RegIdx) (rs : RegIdx) (ty : ShiftType) (rm : RegIdx) : Statement (.cmnShReg c rn rs ty rm) :=
  condF_encDpShReg _ _ _ _ _ _ _ _
theorem orrImm (c : Cond) (s : Bool) (rn rd : RegIdx) (rot : BitVec 4) (imm8 : BitVec 8) : Statement (.orrImm c s rn rd rot imm8) :=
  condF_encDpImm _ _ _ _ _ _ _
theorem orrShImm (c : Cond) (s : Bool) (rn rd : RegIdx) (amt : BitVec 5) (ty : ShiftType) (rm : RegIdx) : Statement (.orrShImm c s rn rd amt ty rm) :=
  condF_encDpShImm _ _ _ _ _ _ _ _
theorem orrShReg (c : Cond) (s : Bool) (rn rd : RegIdx) (rs : RegIdx) (ty : ShiftType) (rm : RegIdx) : Statement (.orrShReg c s rn rd rs ty rm) :=
  condF_encDpShReg _ _ _ _ _ _ _ _
theorem movImm (c : Cond) (s : Bool) (rd : RegIdx) (rot : BitVec 4) (imm8 : BitVec 8) : Statement (.movImm c s rd rot imm8) :=
  condF_encDpImm _ _ _ _ _ _ _
theorem movShImm (c : Cond) (s : Bool) (rd : RegIdx) (amt : BitVec 5) (ty : ShiftType) (rm : RegIdx) : Statement (.movShImm c s rd amt ty rm) :=
  condF_encDpShImm _ _ _ _ _ _ _ _
theorem movShReg (c : Cond) (s : Bool) (rd : RegIdx) (rs : RegIdx) (ty : ShiftType) (rm : RegIdx) : Statement (.movShReg c s rd rs ty rm) :=
  condF_encDpShReg _ _ _ _ _ _ _ _
theorem bicImm (c : Cond) (s : Bool) (rn rd : RegIdx) (rot : BitVec 4) (imm8 : BitVec 8) : Statement (.bicImm c s rn rd rot imm8) :=
  condF_encDpImm _ _ _ _ _ _ _
theorem bicShImm (c : Cond) (s : Bool) (rn rd : RegIdx) (amt : BitVec 5) (ty : ShiftType) (rm : RegIdx) : Statement (.bicShImm c s rn rd amt ty rm) :=
  condF_encDpShImm _ _ _ _ _ _ _ _
theorem bicShReg (c : Cond) (s : Bool) (rn rd : RegIdx) (rs : RegIdx) (ty : ShiftType) (rm : RegIdx) : Statement (.bicShReg c s rn rd rs ty rm) :=
  condF_encDpShReg _ _ _ _ _ _ _ _
theorem mvnImm (c : Cond) (s : Bool) (rd : RegIdx) (rot : BitVec 4) (imm8 : BitVec 8) : Statement (.mvnImm c s rd rot imm8) :=
  condF_encDpImm _ _ _ _ _ _ _
theorem mvnShImm (c : Cond) (s : Bool) (rd : RegIdx) (amt : BitVec 5) (ty : ShiftType) (rm : RegIdx) : Statement (.mvnShImm c s rd amt ty rm) :=
  condF_encDpShImm _ _ _ _ _ _ _ _
theorem mvnShReg (c : Cond) (s : Bool) (rd : RegIdx) (rs : RegIdx) (ty : ShiftType) (rm : RegIdx) : Statement (.mvnShReg c s rd rs ty rm) :=
  condF_encDpShReg _ _ _ _ _ _ _ _
theorem mrs (c : Cond) (psr : Psr) (rd : RegIdx) : Statement (.mrs c psr rd) :=
  condF_mrs _ _ _
theorem msrReg (c : Cond) (psr : Psr) (mask : BitVec 4) (rm : RegIdx) : Statement (.msrReg c psr mask rm) :=
  condF_msrReg _ _ _ _
theorem msrImm (c : Cond) (psr : Psr) (mask : BitVec 4) (rot : BitVec 4) (imm8 : BitVec 8) : Statement (.msrImm c psr mask rot imm8) :=
  condF_msrImm _ _ _ _ _
theorem bx (c : Cond) (rm : RegIdx) : Statement (.bx c rm) :=
  condF_bx _ _
theorem blxReg (c : Cond) (rm : RegIdx) : Statement (.blxReg c rm) :=
  condF_blxReg _ _
theorem clz (c : Cond) (rd rm : RegIdx) : Statement (.clz c rd rm) :=
  condF_clz _ _ _
theorem qadd (c : Cond) : Statement (.qadd c) :=
  condF_encClass _ _
theorem qsub (c : Cond) : Statement (.qsub c) :=
  condF_encClass _ _
theorem qdadd (c : Cond) : Statement (.qdadd c) :=
  condF_encClass _ _
theorem qdsub (c : Cond) : Statement (.qdsub c) :=
  condF_encClass _ _
theorem smulClass (c : Cond) : Statement (.smulClass c) :=
  condF_encClass _ _
theorem mulClass (c : Cond) : Statement (.mulClass c) :=
  condF_encClass _ _
theorem xlsClassH (c : Cond) : Statement (.xlsClassH c) :=
  condF_encClass _ _
theorem xlsClassSb (c : Cond) : Statement (.xlsClassSb c) :=
  condF_encClass _ _
theorem xlsClassSh (c : Cond) : Statement (.xlsClassSh c) :=
  condF_encClass _ _
theorem lsImmClass (c : Cond) : Statement (.lsImmClass c) :=
  condF_encClass _ _
theorem lsRegClass (c : Cond) : Statement (.lsRegClass c) :=
  condF_encClass _ _
theorem mediaClass (c : Cond) : Statement (.mediaClass c) :=
  condF_encClass _ _
theorem ldm (c : Cond) (p u w : Bool) (rn : RegIdx) (list : BitVec 16) : Statement (.ldm c p u w rn list) :=
  condF_encLsm _ _ _ _ _ _ _ _
theorem ldmUser (c : Cond) (p u w : Bool) (rn : RegIdx) (list : BitVec 16) : Statement (.ldmUser c p u w rn list) :=
  condF_encLsm _ _ _ _ _ _ _ _
theorem ldmRet (c : Cond) (p u w : Bool) (rn : RegIdx) (list : BitVec 16) : Statement (.ldmRet c p u w rn list) :=
  condF_encLsm _ _ _ _ _ _ _ _
theorem stm (c : Cond) (p u w : Bool) (rn : RegIdx) (list : BitVec 16) : Statement (.stm c p u w rn list) :=
  condF_encLsm _ _ _ _ _ _ _ _
theorem stmUser (c : Cond) (p u w : Bool) (rn : RegIdx) (list : BitVec 16) : Statement (.stmUser c p u w rn list) :=
  condF_encLsm _ _ _ _ _ _ _ _
theorem stmSPc (c : Cond) (p u w : Bool) (rn : RegIdx) (list : BitVec 16) : Statement (.stmSPc c p u w rn list) :=
  condF_encLsm _ _ _ _ _ _ _ _
theorem b (c : Cond) (imm24 : BitVec 24) : Statement (.b c imm24) :=
  condF_b _ _
theorem bl (c : Cond) (imm24 : BitVec 24) : Statement (.bl c imm24) :=
  condF_bl _ _
theorem cpLsClass (c : Cond) : Statement (.cpLsClass c) :=
  condF_encClass _ _
theorem cpOpClass (c : Cond) : Statement (.cpOpClass c) :=
  condF_encClass _ _
theorem swi (c : Cond) : Statement (.swi c) :=
  condF_encClass _ _
theorem blxImm (h : Bool) (imm24 : BitVec 24) : Statement (.blxImm h imm24) :=
  condF_blxImm _ _

end Laws.EncodesCondition

end Sys2Proof
end

