-- ==== Sys2Proof/Laws/DecodeTree.lean ====
section
/-! SUPPORT. The decode tree one branch at a time (`30_encoding.md` R102 to R112): which branch a word of a format takes, and the
condition of what the tree answers. -/

namespace Sys2Proof

/-- A word whose condition is one of the fifteen goes to the normal table (R104). -/
theorem decodeWord_normal {w : Word} {c : Cond} (h : condF w = c.code) : decodeWord w = decodeNormal c w := by
  unfold decodeWord; rw [h, Cond.ofCode_code]

/-- Code 1111 goes to the unconditional space (R103). -/
theorem decodeWord_unconditional {w : Word} (h : condF w = 0b1111) : decodeWord w = decodeUnconditional w := by
  unfold decodeWord; rw [h]; rfl

theorem decodeNormal_group0 {w : Word} {c : Cond} (h : groupF w = 0) : decodeNormal c w = decodeGroup0 c w := by
  unfold decodeNormal; rw [h]; rfl

theorem decodeNormal_group1 {w : Word} {c : Cond} (h : groupF w = 1) : decodeNormal c w = decodeGroup1 c w := by
  unfold decodeNormal; rw [h]; rfl

theorem decodeNormal_group4 {w : Word} {c : Cond} (h : groupF w = 4) : decodeNormal c w = .ok (decodeLsm c w) := by
  unfold decodeNormal; rw [h]; rfl

/-- Group 000, the miscellaneous space (R105 test 2, R107). -/
theorem decodeGroup0_misc {w : Word} {c : Cond} (h74 : (w.getLsbD 7 && w.getLsbD 4) = false) (hm : isMiscSpace w = true) :
    decodeGroup0 c w = decodeMisc c w := by
  unfold decodeGroup0; rw [h74, hm]; rfl

/-! ## The data-processing formats, outside the miscellaneous space -/

theorem decodeWord_encDpImm (c : Cond) (op : BitVec 4) (s : Bool) (rn rd : RegIdx) (rot : BitVec 4) (imm8 : BitVec 8)
    (h : (op.getLsbD 3 && !op.getLsbD 2 && !s) = false) :
    decodeWord (encDpImm c op s rn rd rot imm8) = .ok (decodeDpImm c (encDpImm c op s rn rd rot imm8)) := by
  rw [decodeWord_normal (condF_encDpImm ..), decodeNormal_group1 (groupF_encDpImm ..)]
  unfold decodeGroup1 isMiscSpace
  rw [bit24_encDpImm, bit23_encDpImm, bit20_encDpImm, h]
  rfl

theorem decodeWord_encDpShImm (c : Cond) (op : BitVec 4) (s : Bool) (rn rd : RegIdx) (amt : BitVec 5) (ty : ShiftType)
    (rm : RegIdx) (h : (op.getLsbD 3 && !op.getLsbD 2 && !s) = false) :
    decodeWord (encDpShImm c op s rn rd amt ty rm) = .ok (decodeDpShImm c (encDpShImm c op s rn rd amt ty rm)) := by
  rw [decodeWord_normal (condF_encDpShImm ..), decodeNormal_group0 (groupF_encDpShImm ..)]
  unfold decodeGroup0 isMiscSpace
  rw [bit24_encDpShImm, bit23_encDpShImm, bit20_encDpShImm, bit4_encDpShImm, h]
  simp

theorem decodeWord_encDpShReg (c : Cond) (op : BitVec 4) (s : Bool) (rn rd rs : RegIdx) (ty : ShiftType) (rm : RegIdx)
    (h : (op.getLsbD 3 && !op.getLsbD 2 && !s) = false) :
    decodeWord (encDpShReg c op s rn rd rs ty rm) = .ok (decodeDpShReg c (encDpShReg c op s rn rd rs ty rm)) := by
  rw [decodeWord_normal (condF_encDpShReg ..), decodeNormal_group0 (groupF_encDpShReg ..)]
  unfold decodeGroup0 isMiscSpace
  rw [bit24_encDpShReg, bit23_encDpShReg, bit20_encDpShReg, bit4_encDpShReg, bit7_encDpShReg, h]
  simp

theorem decodeWord_encLsm (c : Cond) (p u s w l : Bool) (rn : RegIdx) (list : BitVec 16) :
    decodeWord (encLsm c p u s w l rn list) = .ok (decodeLsm c (encLsm c p u s w l rn list)) := by
  rw [decodeWord_normal (condF_encLsm ..), decodeNormal_group4 (groupF_encLsm ..)]

/-! ## Bytes -/

/-- Four little-endian bytes make their word again (R63, R90). -/
theorem bytesWord_wordBytes (w : Word) :
    bytesWord (w.extractLsb' 0 8) (w.extractLsb' 8 8) (w.extractLsb' 16 8) (w.extractLsb' 24 8) = w := by
  apply BitVec.eq_of_getLsbD_eq
  intro i hi
  simp only [bytesWord, BitVec.getLsbD_or, getLsbD_atBit, BitVec.getLsbD_extractLsb']
  interval_cases i <;> simp

theorem decode_wordBytes (w : Word) (rest : List Byte) :
    decode (wordBytes w ++ rest) = (decodeWord w).map fun i => (i, rest) := by
  simp [decode, wordBytes, bytesWord_wordBytes]

/-! ## The condition of a decoded instruction -/

/-- The instruction a word decodes to carries the word's condition code (R91, R103). -/
theorem decodeWord_condCode {w : Word} {i : Instr} (h : decodeWord w = .ok i) : i.condCode = condF w := by
  unfold decodeWord at h
  split at h
  · next hn =>
    rw [Cond.ofCode_none.1 hn]
    unfold decodeUnconditional at h
    split at h <;> cases h
    rfl
  · next c hn =>
    rw [← Cond.code_ofCode hn]
    unfold decodeNormal at h
    split at h
    · unfold decodeGroup0 decodeMulXls decodeMisc at h
      repeat' split at h
      all_goals cases h <;> try rfl
      · unfold decodeDpShReg; split <;> rfl
      · unfold decodeDpShImm; split <;> rfl
    · unfold decodeGroup1 at h
      repeat' split at h
      all_goals cases h <;> try rfl
      unfold decodeDpImm; split <;> rfl
    · cases h; rfl
    · cases h; split <;> rfl
    · cases h; unfold decodeLsm; simp only
      split <;> split <;> (try split) <;> rfl
    · cases h; split <;> rfl
    · cases h; rfl
    · cases h; split <;> rfl

end Sys2Proof
end

