-- ==== Sys2Proof/Laws/Driver.lean ====
section
/-! SUPPORT. What a driver's write changes, said once: the piece of state it names and nothing else
(`70_reset_and_hazards.md` R358). -/

namespace Sys2Proof.Machine

/-! ## The active SPSR and the instruction register -/

@[simp] theorem State.driverWriteSpsr_regs (s : State) (v : Word) : (s.driverWriteSpsr v).regs = s.regs := rfl
@[simp] theorem State.driverWriteSpsr_cpsr (s : State) (v : Word) : (s.driverWriteSpsr v).cpsr = s.cpsr := rfl
@[simp] theorem State.driverWriteSpsr_spsr (s : State) (v : Word) : (s.driverWriteSpsr v).spsr = v := rfl
@[simp] theorem State.driverWriteSpsr_mode (s : State) (v : Word) : (s.driverWriteSpsr v).mode = s.mode := rfl
@[simp] theorem State.driverWriteSpsr_bankUsr (s : State) (v : Word) : (s.driverWriteSpsr v).bankUsr = s.bankUsr := rfl
@[simp] theorem State.driverWriteSpsr_bankFiq (s : State) (v : Word) : (s.driverWriteSpsr v).bankFiq = s.bankFiq := rfl
@[simp] theorem State.driverWriteSpsr_bankIrq (s : State) (v : Word) : (s.driverWriteSpsr v).bankIrq = s.bankIrq := rfl
@[simp] theorem State.driverWriteSpsr_bankSvc (s : State) (v : Word) : (s.driverWriteSpsr v).bankSvc = s.bankSvc := rfl
@[simp] theorem State.driverWriteSpsr_bankAbt (s : State) (v : Word) : (s.driverWriteSpsr v).bankAbt = s.bankAbt := rfl
@[simp] theorem State.driverWriteSpsr_bankUnd (s : State) (v : Word) : (s.driverWriteSpsr v).bankUnd = s.bankUnd := rfl
@[simp] theorem State.driverWriteSpsr_spsrFiq (s : State) (v : Word) : (s.driverWriteSpsr v).spsrFiq = s.spsrFiq := rfl
@[simp] theorem State.driverWriteSpsr_spsrIrq (s : State) (v : Word) : (s.driverWriteSpsr v).spsrIrq = s.spsrIrq := rfl
@[simp] theorem State.driverWriteSpsr_spsrSvc (s : State) (v : Word) : (s.driverWriteSpsr v).spsrSvc = s.spsrSvc := rfl
@[simp] theorem State.driverWriteSpsr_spsrAbt (s : State) (v : Word) : (s.driverWriteSpsr v).spsrAbt = s.spsrAbt := rfl
@[simp] theorem State.driverWriteSpsr_spsrUnd (s : State) (v : Word) : (s.driverWriteSpsr v).spsrUnd = s.spsrUnd := rfl
@[simp] theorem State.driverWriteSpsr_ir (s : State) (v : Word) : (s.driverWriteSpsr v).ir = s.ir := rfl
@[simp] theorem State.driverWriteSpsr_halted (s : State) (v : Word) : (s.driverWriteSpsr v).halted = s.halted := rfl
@[simp] theorem State.driverWriteSpsr_err (s : State) (v : Word) : (s.driverWriteSpsr v).err = s.err := rfl
@[simp] theorem State.driverWriteSpsr_mem (s : State) (v : Word) : (s.driverWriteSpsr v).mem = s.mem := rfl
@[simp] theorem State.driverWriteIr_regs (s : State) (v : Word) : (s.driverWriteIr v).regs = s.regs := rfl
@[simp] theorem State.driverWriteIr_cpsr (s : State) (v : Word) : (s.driverWriteIr v).cpsr = s.cpsr := rfl
@[simp] theorem State.driverWriteIr_spsr (s : State) (v : Word) : (s.driverWriteIr v).spsr = s.spsr := rfl
@[simp] theorem State.driverWriteIr_mode (s : State) (v : Word) : (s.driverWriteIr v).mode = s.mode := rfl
@[simp] theorem State.driverWriteIr_bankUsr (s : State) (v : Word) : (s.driverWriteIr v).bankUsr = s.bankUsr := rfl
@[simp] theorem State.driverWriteIr_bankFiq (s : State) (v : Word) : (s.driverWriteIr v).bankFiq = s.bankFiq := rfl
@[simp] theorem State.driverWriteIr_bankIrq (s : State) (v : Word) : (s.driverWriteIr v).bankIrq = s.bankIrq := rfl
@[simp] theorem State.driverWriteIr_bankSvc (s : State) (v : Word) : (s.driverWriteIr v).bankSvc = s.bankSvc := rfl
@[simp] theorem State.driverWriteIr_bankAbt (s : State) (v : Word) : (s.driverWriteIr v).bankAbt = s.bankAbt := rfl
@[simp] theorem State.driverWriteIr_bankUnd (s : State) (v : Word) : (s.driverWriteIr v).bankUnd = s.bankUnd := rfl
@[simp] theorem State.driverWriteIr_spsrFiq (s : State) (v : Word) : (s.driverWriteIr v).spsrFiq = s.spsrFiq := rfl
@[simp] theorem State.driverWriteIr_spsrIrq (s : State) (v : Word) : (s.driverWriteIr v).spsrIrq = s.spsrIrq := rfl
@[simp] theorem State.driverWriteIr_spsrSvc (s : State) (v : Word) : (s.driverWriteIr v).spsrSvc = s.spsrSvc := rfl
@[simp] theorem State.driverWriteIr_spsrAbt (s : State) (v : Word) : (s.driverWriteIr v).spsrAbt = s.spsrAbt := rfl
@[simp] theorem State.driverWriteIr_spsrUnd (s : State) (v : Word) : (s.driverWriteIr v).spsrUnd = s.spsrUnd := rfl
@[simp] theorem State.driverWriteIr_ir (s : State) (v : Word) : (s.driverWriteIr v).ir = v := rfl
@[simp] theorem State.driverWriteIr_halted (s : State) (v : Word) : (s.driverWriteIr v).halted = s.halted := rfl
@[simp] theorem State.driverWriteIr_err (s : State) (v : Word) : (s.driverWriteIr v).err = s.err := rfl
@[simp] theorem State.driverWriteIr_mem (s : State) (v : Word) : (s.driverWriteIr v).mem = s.mem := rfl

/-! ## Bank storage -/

theorem State.bankSlot_writeBankSlot (s : State) (a b : BankSlot) (v : Word) :
    (s.writeBankSlot a v).bankSlot b = if a = b then v else s.bankSlot b := by
  cases a <;> cases b <;>
    simp [State.writeBankSlot, State.bankSlot, Vector.getElem_set, Fin.ext_iff]

@[simp] theorem State.bankSlot_writeBankSlot_self (s : State) (a : BankSlot) (v : Word) :
    (s.writeBankSlot a v).bankSlot a = v := by simp [State.bankSlot_writeBankSlot]

@[simp] theorem State.writeBankSlot_spsrSlot (s : State) (a : BankSlot) (b : SpsrSlot) (v : Word) :
    (s.writeBankSlot a v).spsrSlot b = s.spsrSlot b := by cases a <;> rfl

@[simp] theorem State.writeBankSlot_regs (s : State) (a : BankSlot) (v : Word) : (s.writeBankSlot a v).regs = s.regs := by cases a <;> rfl
@[simp] theorem State.writeBankSlot_cpsr (s : State) (a : BankSlot) (v : Word) : (s.writeBankSlot a v).cpsr = s.cpsr := by cases a <;> rfl
@[simp] theorem State.writeBankSlot_spsr (s : State) (a : BankSlot) (v : Word) : (s.writeBankSlot a v).spsr = s.spsr := by cases a <;> rfl
@[simp] theorem State.writeBankSlot_mode (s : State) (a : BankSlot) (v : Word) : (s.writeBankSlot a v).mode = s.mode := by cases a <;> rfl
@[simp] theorem State.writeBankSlot_ir (s : State) (a : BankSlot) (v : Word) : (s.writeBankSlot a v).ir = s.ir := by cases a <;> rfl
@[simp] theorem State.writeBankSlot_halted (s : State) (a : BankSlot) (v : Word) : (s.writeBankSlot a v).halted = s.halted := by
  cases a <;> rfl
@[simp] theorem State.writeBankSlot_err (s : State) (a : BankSlot) (v : Word) : (s.writeBankSlot a v).err = s.err := by cases a <;> rfl
@[simp] theorem State.writeBankSlot_mem (s : State) (a : BankSlot) (v : Word) : (s.writeBankSlot a v).mem = s.mem := by cases a <;> rfl

/-! ## SPSR slots -/

theorem State.spsrSlot_writeSpsrSlot (s : State) (a b : SpsrSlot) (v : Word) :
    (s.writeSpsrSlot a v).spsrSlot b = if a = b then v else s.spsrSlot b := by
  cases a <;> cases b <;> rfl

@[simp] theorem State.spsrSlot_writeSpsrSlot_self (s : State) (a : SpsrSlot) (v : Word) :
    (s.writeSpsrSlot a v).spsrSlot a = v := by simp [State.spsrSlot_writeSpsrSlot]

@[simp] theorem State.writeSpsrSlot_bankSlot (s : State) (a : SpsrSlot) (b : BankSlot) (v : Word) :
    (s.writeSpsrSlot a v).bankSlot b = s.bankSlot b := by cases a <;> rfl

@[simp] theorem State.writeSpsrSlot_regs (s : State) (a : SpsrSlot) (v : Word) : (s.writeSpsrSlot a v).regs = s.regs := by cases a <;> rfl
@[simp] theorem State.writeSpsrSlot_cpsr (s : State) (a : SpsrSlot) (v : Word) : (s.writeSpsrSlot a v).cpsr = s.cpsr := by cases a <;> rfl
@[simp] theorem State.writeSpsrSlot_spsr (s : State) (a : SpsrSlot) (v : Word) : (s.writeSpsrSlot a v).spsr = s.spsr := by cases a <;> rfl
@[simp] theorem State.writeSpsrSlot_mode (s : State) (a : SpsrSlot) (v : Word) : (s.writeSpsrSlot a v).mode = s.mode := by cases a <;> rfl
@[simp] theorem State.writeSpsrSlot_ir (s : State) (a : SpsrSlot) (v : Word) : (s.writeSpsrSlot a v).ir = s.ir := by cases a <;> rfl
@[simp] theorem State.writeSpsrSlot_halted (s : State) (a : SpsrSlot) (v : Word) : (s.writeSpsrSlot a v).halted = s.halted := by
  cases a <;> rfl
@[simp] theorem State.writeSpsrSlot_err (s : State) (a : SpsrSlot) (v : Word) : (s.writeSpsrSlot a v).err = s.err := by cases a <;> rfl
@[simp] theorem State.writeSpsrSlot_mem (s : State) (a : SpsrSlot) (v : Word) : (s.writeSpsrSlot a v).mem = s.mem := by cases a <;> rfl

/-! ## CPSR -/

/-- A value that names a mode: CPSR takes it and the mode is switched. -/
theorem State.driverWriteCpsr_of_some {s : State} {v : Word} {m : Mode} (h : modeOf (modeField v) = some m) :
    s.driverWriteCpsr v = ({ s with cpsr := v } : State).switchMode m := by
  rw [State.driverWriteCpsr, State.writeCpsr_of_some h]; rfl

/-- A value that names no mode: the core is halted by `InvalidMode`, whether or not it was halted before (log 15). -/
theorem State.driverWriteCpsr_of_none {s : State} {v : Word} (h : modeOf (modeField v) = none) :
    s.driverWriteCpsr v = s.haltedBy (.invalidMode v) := by
  rw [State.driverWriteCpsr, State.writeCpsr_of_none h]; rfl

/-! ## Every call -/

/-- Everything a driver's call on a live core can answer as a live core: the parameters are kept, and the state is the step's, the
reset one, or differs in the one piece of state that the call writes. -/
theorem driverCall_cases {call : DriverCall} {c c' : Config} {s t : State}
    (h : driverCall call (.live c s) = .next (.live c' t)) :
    c' = c ∧
    ((call = .step ∧ step s = .next t) ∨
     (call = .reset ∧ t = s.driverReset c) ∨
     (∃ a n v m, call = .writeMem a n v ∧ memWrite s.mem a n v = .ok m ∧ t = { s with mem := m }) ∨
     (∃ i v, call = .writeReg i v ∧ t = s.write i v) ∨
     (∃ v, call = .writeCpsr v ∧ t = s.driverWriteCpsr v) ∨
     (∃ v, call = .writeSpsr v ∧ t = s.driverWriteSpsr v) ∨
     (∃ slot v, call = .writeSpsrSlot slot v ∧ t = s.writeSpsrSlot slot v) ∨
     (∃ slot v, call = .writeBank slot v ∧ t = s.writeBankSlot slot v) ∨
     (∃ v, call = .writeIr v ∧ t = s.driverWriteIr v)) := by
  cases call with
  | step =>
    simp only [driverCall] at h
    cases hs : step s <;> rw [hs] at h <;> cases h
    simp
  | writeMem a n v =>
    simp only [driverCall, State.driverWriteMem] at h
    cases hm : memWrite s.mem a n v <;> rw [hm] at h <;> cases h
    exact ⟨rfl, .inr (.inr (.inl ⟨a, n, v, _, rfl, hm, rfl⟩))⟩
  | dispose => cases h
  | _ => cases h; simp

end Sys2Proof.Machine
end

