-- ==== Sys2Proof/Laws/Exec.lean ====
section
/-! SUPPORT. What `exec` answers for each instruction, with the condition gate taken apart: later proofs cite these and unfold
neither `exec` nor a meaning. -/

namespace Sys2Proof.Machine

theorem exec_andImm (c : Cond) (sf : Bool) (rn rd : RegIdx) (rot : BitVec 4) (imm8 : BitVec 8) (s : State) :
    exec (.andImm c sf rn rd rot imm8) s = .next (if condPassed c.code s.cpsr then
      (dpWrite sf rd (aluAnd (s.read rn) (shifterOperand (.imm rot imm8) s)) s).settle else s) := 
  whenPassed_eq c s fun s => dpWrite sf rd (aluAnd (s.read rn) (shifterOperand (.imm rot imm8) s)) s

theorem exec_andShImm (c : Cond) (sf : Bool) (rn rd : RegIdx) (amt : BitVec 5) (ty : ShiftType) (rm : RegIdx) (s : State) :
    exec (.andShImm c sf rn rd amt ty rm) s = .next (if condPassed c.code s.cpsr then
      (dpWrite sf rd (aluAnd (s.read rn) (shifterOperand (.shImm amt ty rm) s)) s).settle else s) := 
  whenPassed_eq c s fun s => dpWrite sf rd (aluAnd (s.read rn) (shifterOperand (.shImm amt ty rm) s)) s

theorem exec_andShReg (c : Cond) (sf : Bool) (rn rd : RegIdx) (rs : RegIdx) (ty : ShiftType) (rm : RegIdx) (s : State) :
    exec (.andShReg c sf rn rd rs ty rm) s = .next (if condPassed c.code s.cpsr then
      (dpWrite sf rd (aluAnd (s.read rn) (shifterOperand (.shReg rs ty rm) s)) s).settle else s) := 
  whenPassed_eq c s fun s => dpWrite sf rd (aluAnd (s.read rn) (shifterOperand (.shReg rs ty rm) s)) s

theorem exec_eorImm (c : Cond) (sf : Bool) (rn rd : RegIdx) (rot : BitVec 4) (imm8 : BitVec 8) (s : State) :
    exec (.eorImm c sf rn rd rot imm8) s = .next (if condPassed c.code s.cpsr then
      (dpWrite sf rd (aluEor (s.read rn) (shifterOperand (.imm rot imm8) s)) s).settle else s) := 
  whenPassed_eq c s fun s => dpWrite sf rd (aluEor (s.read rn) (shifterOperand (.imm rot imm8) s)) s

theorem exec_eorShImm (c : Cond) (sf : Bool) (rn rd : RegIdx) (amt : BitVec 5) (ty : ShiftType) (rm : RegIdx) (s : State) :
    exec (.eorShImm c sf rn rd amt ty rm) s = .next (if condPassed c.code s.cpsr then
      (dpWrite sf rd (aluEor (s.read rn) (shifterOperand (.shImm amt ty rm) s)) s).settle else s) := 
  whenPassed_eq c s fun s => dpWrite sf rd (aluEor (s.read rn) (shifterOperand (.shImm amt ty rm) s)) s

theorem exec_eorShReg (c : Cond) (sf : Bool) (rn rd : RegIdx) (rs : RegIdx) (ty : ShiftType) (rm : RegIdx) (s : State) :
    exec (.eorShReg c sf rn rd rs ty rm) s = .next (if condPassed c.code s.cpsr then
      (dpWrite sf rd (aluEor (s.read rn) (shifterOperand (.shReg rs ty rm) s)) s).settle else s) := 
  whenPassed_eq c s fun s => dpWrite sf rd (aluEor (s.read rn) (shifterOperand (.shReg rs ty rm) s)) s

theorem exec_subImm (c : Cond) (sf : Bool) (rn rd : RegIdx) (rot : BitVec 4) (imm8 : BitVec 8) (s : State) :
    exec (.subImm c sf rn rd rot imm8) s = .next (if condPassed c.code s.cpsr then
      (dpWrite sf rd (aluSub (s.read rn) (shifterOperand (.imm rot imm8) s)) s).settle else s) := 
  whenPassed_eq c s fun s => dpWrite sf rd (aluSub (s.read rn) (shifterOperand (.imm rot imm8) s)) s

theorem exec_subShImm (c : Cond) (sf : Bool) (rn rd : RegIdx) (amt : BitVec 5) (ty : ShiftType) (rm : RegIdx) (s : State) :
    exec (.subShImm c sf rn rd amt ty rm) s = .next (if condPassed c.code s.cpsr then
      (dpWrite sf rd (aluSub (s.read rn) (shifterOperand (.shImm amt ty rm) s)) s).settle else s) := 
  whenPassed_eq c s fun s => dpWrite sf rd (aluSub (s.read rn) (shifterOperand (.shImm amt ty rm) s)) s

theorem exec_subShReg (c : Cond) (sf : Bool) (rn rd : RegIdx) (rs : RegIdx) (ty : ShiftType) (rm : RegIdx) (s : State) :
    exec (.subShReg c sf rn rd rs ty rm) s = .next (if condPassed c.code s.cpsr then
      (dpWrite sf rd (aluSub (s.read rn) (shifterOperand (.shReg rs ty rm) s)) s).settle else s) := 
  whenPassed_eq c s fun s => dpWrite sf rd (aluSub (s.read rn) (shifterOperand (.shReg rs ty rm) s)) s

theorem exec_rsbImm (c : Cond) (sf : Bool) (rn rd : RegIdx) (rot : BitVec 4) (imm8 : BitVec 8) (s : State) :
    exec (.rsbImm c sf rn rd rot imm8) s = .next (if condPassed c.code s.cpsr then
      (dpWrite sf rd (aluRsb (s.read rn) (shifterOperand (.imm rot imm8) s)) s).settle else s) := 
  whenPassed_eq c s fun s => dpWrite sf rd (aluRsb (s.read rn) (shifterOperand (.imm rot imm8) s)) s

theorem exec_rsbShImm (c : Cond) (sf : Bool) (rn rd : RegIdx) (amt : BitVec 5) (ty : ShiftType) (rm : RegIdx) (s : State) :
    exec (.rsbShImm c sf rn rd amt ty rm) s = .next (if condPassed c.code s.cpsr then
      (dpWrite sf rd (aluRsb (s.read rn) (shifterOperand (.shImm amt ty rm) s)) s).settle else s) := 
  whenPassed_eq c s fun s => dpWrite sf rd (aluRsb (s.read rn) (shifterOperand (.shImm amt ty rm) s)) s

theorem exec_rsbShReg (c : Cond) (sf : Bool) (rn rd : RegIdx) (rs : RegIdx) (ty : ShiftType) (rm : RegIdx) (s : State) :
    exec (.rsbShReg c sf rn rd rs ty rm) s = .next (if condPassed c.code s.cpsr then
      (dpWrite sf rd (aluRsb (s.read rn) (shifterOperand (.shReg rs ty rm) s)) s).settle else s) := 
  whenPassed_eq c s fun s => dpWrite sf rd (aluRsb (s.read rn) (shifterOperand (.shReg rs ty rm) s)) s

theorem exec_addImm (c : Cond) (sf : Bool) (rn rd : RegIdx) (rot : BitVec 4) (imm8 : BitVec 8) (s : State) :
    exec (.addImm c sf rn rd rot imm8) s = .next (if condPassed c.code s.cpsr then
      (dpWrite sf rd (aluAdd (s.read rn) (shifterOperand (.imm rot imm8) s)) s).settle else s) := 
  whenPassed_eq c s fun s => dpWrite sf rd (aluAdd (s.read rn) (shifterOperand (.imm rot imm8) s)) s

theorem exec_addShImm (c : Cond) (sf : Bool) (rn rd : RegIdx) (amt : BitVec 5) (ty : ShiftType) (rm : RegIdx) (s : State) :
    exec (.addShImm c sf rn rd amt ty rm) s = .next (if condPassed c.code s.cpsr then
      (dpWrite sf rd (aluAdd (s.read rn) (shifterOperand (.shImm amt ty rm) s)) s).settle else s) := 
  whenPassed_eq c s fun s => dpWrite sf rd (aluAdd (s.read rn) (shifterOperand (.shImm amt ty rm) s)) s

theorem exec_addShReg (c : Cond) (sf : Bool) (rn rd : RegIdx) (rs : RegIdx) (ty : ShiftType) (rm : RegIdx) (s : State) :
    exec (.addShReg c sf rn rd rs ty rm) s = .next (if condPassed c.code s.cpsr then
      (dpWrite sf rd (aluAdd (s.read rn) (shifterOperand (.shReg rs ty rm) s)) s).settle else s) := 
  whenPassed_eq c s fun s => dpWrite sf rd (aluAdd (s.read rn) (shifterOperand (.shReg rs ty rm) s)) s

theorem exec_adcImm (c : Cond) (sf : Bool) (rn rd : RegIdx) (rot : BitVec 4) (imm8 : BitVec 8) (s : State) :
    exec (.adcImm c sf rn rd rot imm8) s = .next (if condPassed c.code s.cpsr then
      (dpWrite sf rd (aluAdc (s.read rn) (shifterOperand (.imm rot imm8) s) (flagC s.cpsr)) s).settle else s) := 
  whenPassed_eq c s fun s => dpWrite sf rd (aluAdc (s.read rn) (shifterOperand (.imm rot imm8) s) (flagC s.cpsr)) s

theorem exec_adcShImm (c : Cond) (sf : Bool) (rn rd : RegIdx) (amt : BitVec 5) (ty : ShiftType) (rm : RegIdx) (s : State) :
    exec (.adcShImm c sf rn rd amt ty rm) s = .next (if condPassed c.code s.cpsr then
      (dpWrite sf rd (aluAdc (s.read rn) (shifterOperand (.shImm amt ty rm) s) (flagC s.cpsr)) s).settle else s) := 
  whenPassed_eq c s fun s => dpWrite sf rd (aluAdc (s.read rn) (shifterOperand (.shImm amt ty rm) s) (flagC s.cpsr)) s

theorem exec_adcShReg (c : Cond) (sf : Bool) (rn rd : RegIdx) (rs : RegIdx) (ty : ShiftType) (rm : RegIdx) (s : State) :
    exec (.adcShReg c sf rn rd rs ty rm) s = .next (if condPassed c.code s.cpsr then
      (dpWrite sf rd (aluAdc (s.read rn) (shifterOperand (.shReg rs ty rm) s) (flagC s.cpsr)) s).settle else s) := 
  whenPassed_eq c s fun s => dpWrite sf rd (aluAdc (s.read rn) (shifterOperand (.shReg rs ty rm) s) (flagC s.cpsr)) s

theorem exec_sbcImm (c : Cond) (sf : Bool) (rn rd : RegIdx) (rot : BitVec 4) (imm8 : BitVec 8) (s : State) :
    exec (.sbcImm c sf rn rd rot imm8) s = .next (if condPassed c.code s.cpsr then
      (dpWrite sf rd (aluSbc (s.read rn) (shifterOperand (.imm rot imm8) s) (flagC s.cpsr)) s).settle else s) := 
  whenPassed_eq c s fun s => dpWrite sf rd (aluSbc (s.read rn) (shifterOperand (.imm rot imm8) s) (flagC s.cpsr)) s

theorem exec_sbcShImm (c : Cond) (sf : Bool) (rn rd : RegIdx) (amt : BitVec 5) (ty : ShiftType) (rm : RegIdx) (s : State) :
    exec (.sbcShImm c sf rn rd amt ty rm) s = .next (if condPassed c.code s.cpsr then
      (dpWrite sf rd (aluSbc (s.read rn) (shifterOperand (.shImm amt ty rm) s) (flagC s.cpsr)) s).settle else s) := 
  whenPassed_eq c s fun s => dpWrite sf rd (aluSbc (s.read rn) (shifterOperand (.shImm amt ty rm) s) (flagC s.cpsr)) s

theorem exec_sbcShReg (c : Cond) (sf : Bool) (rn rd : RegIdx) (rs : RegIdx) (ty : ShiftType) (rm : RegIdx) (s : State) :
    exec (.sbcShReg c sf rn rd rs ty rm) s = .next (if condPassed c.code s.cpsr then
      (dpWrite sf rd (aluSbc (s.read rn) (shifterOperand (.shReg rs ty rm) s) (flagC s.cpsr)) s).settle else s) := 
  whenPassed_eq c s fun s => dpWrite sf rd (aluSbc (s.read rn) (shifterOperand (.shReg rs ty rm) s) (flagC s.cpsr)) s

theorem exec_rscImm (c : Cond) (sf : Bool) (rn rd : RegIdx) (rot : BitVec 4) (imm8 : BitVec 8) (s : State) :
    exec (.rscImm c sf rn rd rot imm8) s = .next (if condPassed c.code s.cpsr then
      (dpWrite sf rd (aluRsc (s.read rn) (shifterOperand (.imm rot imm8) s) (flagC s.cpsr)) s).settle else s) := 
  whenPassed_eq c s fun s => dpWrite sf rd (aluRsc (s.read rn) (shifterOperand (.imm rot imm8) s) (flagC s.cpsr)) s

theorem exec_rscShImm (c : Cond) (sf : Bool) (rn rd : RegIdx) (amt : BitVec 5) (ty : ShiftType) (rm : RegIdx) (s : State) :
    exec (.rscShImm c sf rn rd amt ty rm) s = .next (if condPassed c.code s.cpsr then
      (dpWrite sf rd (aluRsc (s.read rn) (shifterOperand (.shImm amt ty rm) s) (flagC s.cpsr)) s).settle else s) := 
  whenPassed_eq c s fun s => dpWrite sf rd (aluRsc (s.read rn) (shifterOperand (.shImm amt ty rm) s) (flagC s.cpsr)) s

theorem exec_rscShReg (c : Cond) (sf : Bool) (rn rd : RegIdx) (rs : RegIdx) (ty : ShiftType) (rm : RegIdx) (s : State) :
    exec (.rscShReg c sf rn rd rs ty rm) s = .next (if condPassed c.code s.cpsr then
      (dpWrite sf rd (aluRsc (s.read rn) (shifterOperand (.shReg rs ty rm) s) (flagC s.cpsr)) s).settle else s) := 
  whenPassed_eq c s fun s => dpWrite sf rd (aluRsc (s.read rn) (shifterOperand (.shReg rs ty rm) s) (flagC s.cpsr)) s

theorem exec_tstImm (c : Cond) (rn : RegIdx) (rot : BitVec 4) (imm8 : BitVec 8) (s : State) :
    exec (.tstImm c rn rot imm8) s = .next (if condPassed c.code s.cpsr then
      (dpCompare (aluTst (s.read rn) (shifterOperand (.imm rot imm8) s)) s).settle else s) := 
  whenPassed_eq c s fun s => dpCompare (aluTst (s.read rn) (shifterOperand (.imm rot imm8) s)) s

theorem exec_tstShImm (c : Cond) (rn : RegIdx) (amt : BitVec 5) (ty : ShiftType) (rm : RegIdx) (s : State) :
    exec (.tstShImm c rn amt ty rm) s = .next (if condPassed c.code s.cpsr then
      (dpCompare (aluTst (s.read rn) (shifterOperand (.shImm amt ty rm) s)) s).settle else s) := 
  whenPassed_eq c s fun s => dpCompare (aluTst (s.read rn) (shifterOperand (.shImm amt ty rm) s)) s

theorem exec_tstShReg (c : Cond) (rn : RegIdx) (rs : RegIdx) (ty : ShiftType) (rm : RegIdx) (s : State) :
    exec (.tstShReg c rn rs ty rm) s = .next (if condPassed c.code s.cpsr then
      (dpCompare (aluTst (s.read rn) (shifterOperand (.shReg rs ty rm) s)) s).settle else s) := 
  whenPassed_eq c s fun s => dpCompare (aluTst (s.read rn) (shifterOperand (.shReg rs ty rm) s)) s

theorem exec_teqImm (c : Cond) (rn : RegIdx) (rot : BitVec 4) (imm8 : BitVec 8) (s : State) :
    exec (.teqImm c rn rot imm8) s = .next (if condPassed c.code s.cpsr then
      (dpCompare (aluTeq (s.read rn) (shifterOperand (.imm rot imm8) s)) s).settle else s) := 
  whenPassed_eq c s fun s => dpCompare (aluTeq (s.read rn) (shifterOperand (.imm rot imm8) s)) s

theorem exec_teqShImm (c : Cond) (rn : RegIdx) (amt : BitVec 5) (ty : ShiftType) (rm : RegIdx) (s : State) :
    exec (.teqShImm c rn amt ty rm) s = .next (if condPassed c.code s.cpsr then
      (dpCompare (aluTeq (s.read rn) (shifterOperand (.shImm amt ty rm) s)) s).settle else s) := 
  whenPassed_eq c s fun s => dpCompare (aluTeq (s.read rn) (shifterOperand (.shImm amt ty rm) s)) s

theorem exec_teqShReg (c : Cond) (rn : RegIdx) (rs : RegIdx) (ty : ShiftType) (rm : RegIdx) (s : State) :
    exec (.teqShReg c rn rs ty rm) s = .next (if condPassed c.code s.cpsr then
      (dpCompare (aluTeq (s.read rn) (shifterOperand (.shReg rs ty rm) s)) s).settle else s) := 
  whenPassed_eq c s fun s => dpCompare (aluTeq (s.read rn) (shifterOperand (.shReg rs ty rm) s)) s

theorem exec_cmpImm (c : Cond) (rn : RegIdx) (rot : BitVec 4) (imm8 : BitVec 8) (s : State) :
    exec (.cmpImm c rn rot imm8) s = .next (if condPassed c.code s.cpsr then
      (dpCompare (aluCmp (s.read rn) (shifterOperand (.imm rot imm8) s)) s).settle else s) := 
  whenPassed_eq c s fun s => dpCompare (aluCmp (s.read rn) (shifterOperand (.imm rot imm8) s)) s

theorem exec_cmpShImm (c : Cond) (rn : RegIdx) (amt : BitVec 5) (ty : ShiftType) (rm : RegIdx) (s : State) :
    exec (.cmpShImm c rn amt ty rm) s = .next (if condPassed c.code s.cpsr then
      (dpCompare (aluCmp (s.read rn) (shifterOperand (.shImm amt ty rm) s)) s).settle else s) := 
  whenPassed_eq c s fun s => dpCompare (aluCmp (s.read rn) (shifterOperand (.shImm amt ty rm) s)) s

theorem exec_cmpShReg (c : Cond) (rn : RegIdx) (rs : RegIdx) (ty : ShiftType) (rm : RegIdx) (s : State) :
    exec (.cmpShReg c rn rs ty rm) s = .next (if condPassed c.code s.cpsr then
      (dpCompare (aluCmp (s.read rn) (shifterOperand (.shReg rs ty rm) s)) s).settle else s) := 
  whenPassed_eq c s fun s => dpCompare (aluCmp (s.read rn) (shifterOperand (.shReg rs ty rm) s)) s

theorem exec_cmnImm (c : Cond) (rn : RegIdx) (rot : BitVec 4) (imm8 : BitVec 8) (s : State) :
    exec (.cmnImm c rn rot imm8) s = .next (if condPassed c.code s.cpsr then
      (dpCompare (aluCmn (s.read rn) (shifterOperand (.imm rot imm8) s)) s).settle else s) := 
  whenPassed_eq c s fun s => dpCompare (aluCmn (s.read rn) (shifterOperand (.imm rot imm8) s)) s

theorem exec_cmnShImm (c : Cond) (rn : RegIdx) (amt : BitVec 5) (ty : ShiftType) (rm : RegIdx) (s : State) :
    exec (.cmnShImm c rn amt ty rm) s = .next (if condPassed c.code s.cpsr then
      (dpCompare (aluCmn (s.read rn) (shifterOperand (.shImm amt ty rm) s)) s).settle else s) := 
  whenPassed_eq c s fun s => dpCompare (aluCmn (s.read rn) (shifterOperand (.shImm amt ty rm) s)) s

theorem exec_cmnShReg (c : Cond) (rn : RegIdx) (rs : RegIdx) (ty : ShiftType) (rm : RegIdx) (s : State) :
    exec (.cmnShReg c rn rs ty rm) s = .next (if condPassed c.code s.cpsr then
      (dpCompare (aluCmn (s.read rn) (shifterOperand (.shReg rs ty rm) s)) s).settle else s) := 
  whenPassed_eq c s fun s => dpCompare (aluCmn (s.read rn) (shifterOperand (.shReg rs ty rm) s)) s

theorem exec_orrImm (c : Cond) (sf : Bool) (rn rd : RegIdx) (rot : BitVec 4) (imm8 : BitVec 8) (s : State) :
    exec (.orrImm c sf rn rd rot imm8) s = .next (if condPassed c.code s.cpsr then
      (dpWrite sf rd (aluOrr (s.read rn) (shifterOperand (.imm rot imm8) s)) s).settle else s) := 
  whenPassed_eq c s fun s => dpWrite sf rd (aluOrr (s.read rn) (shifterOperand (.imm rot imm8) s)) s

theorem exec_orrShImm (c : Cond) (sf : Bool) (rn rd : RegIdx) (amt : BitVec 5) (ty : ShiftType) (rm : RegIdx) (s : State) :
    exec (.orrShImm c sf rn rd amt ty rm) s = .next (if condPassed c.code s.cpsr then
      (dpWrite sf rd (aluOrr (s.read rn) (shifterOperand (.shImm amt ty rm) s)) s).settle else s) := 
  whenPassed_eq c s fun s => dpWrite sf rd (aluOrr (s.read rn) (shifterOperand (.shImm amt ty rm) s)) s

theorem exec_orrShReg (c : Cond) (sf : Bool) (rn rd : RegIdx) (rs : RegIdx) (ty : ShiftType) (rm : RegIdx) (s : State) :
    exec (.orrShReg c sf rn rd rs ty rm) s = .next (if condPassed c.code s.cpsr then
      (dpWrite sf rd (aluOrr (s.read rn) (shifterOperand (.shReg rs ty rm) s)) s).settle else s) := 
  whenPassed_eq c s fun s => dpWrite sf rd (aluOrr (s.read rn) (shifterOperand (.shReg rs ty rm) s)) s

theorem exec_movImm (c : Cond) (sf : Bool) (rd : RegIdx) (rot : BitVec 4) (imm8 : BitVec 8) (s : State) :
    exec (.movImm c sf rd rot imm8) s = .next (if condPassed c.code s.cpsr then
      (dpWrite sf rd (aluMov (shifterOperand (.imm rot imm8) s)) s).settle else s) := 
  whenPassed_eq c s fun s => dpWrite sf rd (aluMov (shifterOperand (.imm rot imm8) s)) s

theorem exec_movShImm (c : Cond) (sf : Bool) (rd : RegIdx) (amt : BitVec 5) (ty : ShiftType) (rm : RegIdx) (s : State) :
    exec (.movShImm c sf rd amt ty rm) s = .next (if condPassed c.code s.cpsr then
      (dpWrite sf rd (aluMov (shifterOperand (.shImm amt ty rm) s)) s).settle else s) := 
  whenPassed_eq c s fun s => dpWrite sf rd (aluMov (shifterOperand (.shImm amt ty rm) s)) s

theorem exec_movShReg (c : Cond) (sf : Bool) (rd : RegIdx) (rs : RegIdx) (ty : ShiftType) (rm : RegIdx) (s : State) :
    exec (.movShReg c sf rd rs ty rm) s = .next (if condPassed c.code s.cpsr then
      (dpWrite sf rd (aluMov (shifterOperand (.shReg rs ty rm) s)) s).settle else s) := 
  whenPassed_eq c s fun s => dpWrite sf rd (aluMov (shifterOperand (.shReg rs ty rm) s)) s

theorem exec_bicImm (c : Cond) (sf : Bool) (rn rd : RegIdx) (rot : BitVec 4) (imm8 : BitVec 8) (s : State) :
    exec (.bicImm c sf rn rd rot imm8) s = .next (if condPassed c.code s.cpsr then
      (dpWrite sf rd (aluBic (s.read rn) (shifterOperand (.imm rot imm8) s)) s).settle else s) := 
  whenPassed_eq c s fun s => dpWrite sf rd (aluBic (s.read rn) (shifterOperand (.imm rot imm8) s)) s

theorem exec_bicShImm (c : Cond) (sf : Bool) (rn rd : RegIdx) (amt : BitVec 5) (ty : ShiftType) (rm : RegIdx) (s : State) :
    exec (.bicShImm c sf rn rd amt ty rm) s = .next (if condPassed c.code s.cpsr then
      (dpWrite sf rd (aluBic (s.read rn) (shifterOperand (.shImm amt ty rm) s)) s).settle else s) := 
  whenPassed_eq c s fun s => dpWrite sf rd (aluBic (s.read rn) (shifterOperand (.shImm amt ty rm) s)) s

theorem exec_bicShReg (c : Cond) (sf : Bool) (rn rd : RegIdx) (rs : RegIdx) (ty : ShiftType) (rm : RegIdx) (s : State) :
    exec (.bicShReg c sf rn rd rs ty rm) s = .next (if condPassed c.code s.cpsr then
      (dpWrite sf rd (aluBic (s.read rn) (shifterOperand (.shReg rs ty rm) s)) s).settle else s) := 
  whenPassed_eq c s fun s => dpWrite sf rd (aluBic (s.read rn) (shifterOperand (.shReg rs ty rm) s)) s

theorem exec_mvnImm (c : Cond) (sf : Bool) (rd : RegIdx) (rot : BitVec 4) (imm8 : BitVec 8) (s : State) :
    exec (.mvnImm c sf rd rot imm8) s = .next (if condPassed c.code s.cpsr then
      (dpWrite sf rd (aluMvn (shifterOperand (.imm rot imm8) s)) s).settle else s) := 
  whenPassed_eq c s fun s => dpWrite sf rd (aluMvn (shifterOperand (.imm rot imm8) s)) s

theorem exec_mvnShImm (c : Cond) (sf : Bool) (rd : RegIdx) (amt : BitVec 5) (ty : ShiftType) (rm : RegIdx) (s : State) :
    exec (.mvnShImm c sf rd amt ty rm) s = .next (if condPassed c.code s.cpsr then
      (dpWrite sf rd (aluMvn (shifterOperand (.shImm amt ty rm) s)) s).settle else s) := 
  whenPassed_eq c s fun s => dpWrite sf rd (aluMvn (shifterOperand (.shImm amt ty rm) s)) s

theorem exec_mvnShReg (c : Cond) (sf : Bool) (rd : RegIdx) (rs : RegIdx) (ty : ShiftType) (rm : RegIdx) (s : State) :
    exec (.mvnShReg c sf rd rs ty rm) s = .next (if condPassed c.code s.cpsr then
      (dpWrite sf rd (aluMvn (shifterOperand (.shReg rs ty rm) s)) s).settle else s) := 
  whenPassed_eq c s fun s => dpWrite sf rd (aluMvn (shifterOperand (.shReg rs ty rm) s)) s

theorem exec_mrs (c : Cond) (psr : Psr) (rd : RegIdx) (s : State) :
    exec (.mrs c psr rd) s = .next (if condPassed c.code s.cpsr then
      (runMrs psr rd s).settle else s) := 
  whenPassed_eq c s fun s => runMrs psr rd s

theorem exec_msrReg (c : Cond) (psr : Psr) (mask : BitVec 4) (rm : RegIdx) (s : State) :
    exec (.msrReg c psr mask rm) s = .next (if condPassed c.code s.cpsr then
      (runMsr psr mask (s.read rm) s).settle else s) := 
  whenPassed_eq c s fun s => runMsr psr mask (s.read rm) s

theorem exec_msrImm (c : Cond) (psr : Psr) (mask : BitVec 4) (rot : BitVec 4) (imm8 : BitVec 8) (s : State) :
    exec (.msrImm c psr mask rot imm8) s = .next (if condPassed c.code s.cpsr then
      (runMsr psr mask (rotatedImm rot imm8) s).settle else s) := 
  whenPassed_eq c s fun s => runMsr psr mask (rotatedImm rot imm8) s

theorem exec_bx (c : Cond) (rm : RegIdx) (s : State) :
    exec (.bx c rm) s = .next (if condPassed c.code s.cpsr then
      (s.exchangeTo (s.read rm)) else s) := 
  whenPassed_eq c s fun s => .ok (s.exchangeTo (s.read rm))

theorem exec_blxReg (c : Cond) (rm : RegIdx) (s : State) :
    exec (.blxReg c rm) s = .next (if condPassed c.code s.cpsr then
      ((s.write lr s.linkValue).exchangeTo (s.read rm)) else s) := 
  whenPassed_eq c s fun s => .ok ((s.write lr s.linkValue).exchangeTo (s.read rm))

theorem exec_clz (c : Cond) (rd rm : RegIdx) (s : State) :
    exec (.clz c rd rm) s = .next (if condPassed c.code s.cpsr then
      (s.write rd (BitVec.ofNat 32 (countLeadingZeros (s.read rm)))) else s) := 
  whenPassed_eq c s fun s => .ok (s.write rd (BitVec.ofNat 32 (countLeadingZeros (s.read rm))))

theorem exec_qadd (c : Cond) (s : State) :
    exec (.qadd c) s = .next (if condPassed c.code s.cpsr then
      (stub .saturatingArithmetic s).settle else s) := 
  whenPassed_eq c s fun s => stub .saturatingArithmetic s

theorem exec_qsub (c : Cond) (s : State) :
    exec (.qsub c) s = .next (if condPassed c.code s.cpsr then
      (stub .saturatingArithmetic s).settle else s) := 
  whenPassed_eq c s fun s => stub .saturatingArithmetic s

theorem exec_qdadd (c : Cond) (s : State) :
    exec (.qdadd c) s = .next (if condPassed c.code s.cpsr then
      (stub .saturatingArithmetic s).settle else s) := 
  whenPassed_eq c s fun s => stub .saturatingArithmetic s

theorem exec_qdsub (c : Cond) (s : State) :
    exec (.qdsub c) s = .next (if condPassed c.code s.cpsr then
      (stub .saturatingArithmetic s).settle else s) := 
  whenPassed_eq c s fun s => stub .saturatingArithmetic s

theorem exec_smulClass (c : Cond) (s : State) :
    exec (.smulClass c) s = .next (if condPassed c.code s.cpsr then
      (stub .signedMultiply s).settle else s) := 
  whenPassed_eq c s fun s => stub .signedMultiply s

theorem exec_mulClass (c : Cond) (s : State) :
    exec (.mulClass c) s = .next (if condPassed c.code s.cpsr then
      (stub .multiply s).settle else s) := 
  whenPassed_eq c s fun s => stub .multiply s

theorem exec_xlsClassH (c : Cond) (s : State) :
    exec (.xlsClassH c) s = .next (if condPassed c.code s.cpsr then
      (stub .extraLoadStore s).settle else s) := 
  whenPassed_eq c s fun s => stub .extraLoadStore s

theorem exec_xlsClassSb (c : Cond) (s : State) :
    exec (.xlsClassSb c) s = .next (if condPassed c.code s.cpsr then
      (stub .extraLoadStore s).settle else s) := 
  whenPassed_eq c s fun s => stub .extraLoadStore s

theorem exec_xlsClassSh (c : Cond) (s : State) :
    exec (.xlsClassSh c) s = .next (if condPassed c.code s.cpsr then
      (stub .extraLoadStore s).settle else s) := 
  whenPassed_eq c s fun s => stub .extraLoadStore s

theorem exec_lsImmClass (c : Cond) (s : State) :
    exec (.lsImmClass c) s = .next (if condPassed c.code s.cpsr then
      (stub .loadStore s).settle else s) := 
  whenPassed_eq c s fun s => stub .loadStore s

theorem exec_lsRegClass (c : Cond) (s : State) :
    exec (.lsRegClass c) s = .next (if condPassed c.code s.cpsr then
      (stub .loadStore s).settle else s) := 
  whenPassed_eq c s fun s => stub .loadStore s

theorem exec_mediaClass (c : Cond) (s : State) :
    exec (.mediaClass c) s = .next (if condPassed c.code s.cpsr then
      (stub .media s).settle else s) := 
  whenPassed_eq c s fun s => stub .media s

theorem exec_ldm (c : Cond) (p u w : Bool) (rn : RegIdx) (list : BitVec 16) (s : State) :
    exec (.ldm c p u w rn list) s = .next (if condPassed c.code s.cpsr then
      (runLoad p u w rn list s).settle else s) := 
  whenPassed_eq c s fun s => runLoad p u w rn list s

theorem exec_ldmUser (c : Cond) (p u w : Bool) (rn : RegIdx) (list : BitVec 16) (s : State) :
    exec (.ldmUser c p u w rn list) s = .next (if condPassed c.code s.cpsr then
      ((s.writeBack u w rn list).asUser (loadBlock (listedRegs list) (blockStart p u (s.read rn) list))).settle else s) := 
  whenPassed_eq c s fun s => (s.writeBack u w rn list).asUser (loadBlock (listedRegs list) (blockStart p u (s.read rn) list))

theorem exec_ldmRet (c : Cond) (p u w : Bool) (rn : RegIdx) (list : BitVec 16) (s : State) :
    exec (.ldmRet c p u w rn list) s = .next (if condPassed c.code s.cpsr then
      (s.checkReturn.andThen fun s => (runLoad p u w rn list s).andThen fun t => t.writeCpsr t.spsr).settle else s) := 
  whenPassed_eq c s fun s => s.checkReturn.andThen fun s => (runLoad p u w rn list s).andThen fun t => t.writeCpsr t.spsr

theorem exec_stm (c : Cond) (p u w : Bool) (rn : RegIdx) (list : BitVec 16) (s : State) :
    exec (.stm c p u w rn list) s = .next (if condPassed c.code s.cpsr then
      (runStore p u w rn list s).settle else s) := 
  whenPassed_eq c s fun s => runStore p u w rn list s

theorem exec_stmUser (c : Cond) (p u w : Bool) (rn : RegIdx) (list : BitVec 16) (s : State) :
    exec (.stmUser c p u w rn list) s = .next (if condPassed c.code s.cpsr then
      ((s.writeBack u w rn list).asUser (storeBlock (listedRegs list) (blockStart p u (s.read rn) list))).settle else s) := 
  whenPassed_eq c s fun s => (s.writeBack u w rn list).asUser (storeBlock (listedRegs list) (blockStart p u (s.read rn) list))

theorem exec_stmSPc (c : Cond) (p u w : Bool) (rn : RegIdx) (list : BitVec 16) (s : State) :
    exec (.stmSPc c p u w rn list) s = .next (if condPassed c.code s.cpsr then
      (runStore p u w rn list s).settle else s) := 
  whenPassed_eq c s fun s => runStore p u w rn list s

theorem exec_b (c : Cond) (imm24 : BitVec 24) (s : State) :
    exec (.b c imm24) s = .next (if condPassed c.code s.cpsr then
      (s.branchBy (branchOffset imm24)) else s) := 
  whenPassed_eq c s fun s => .ok (s.branchBy (branchOffset imm24))

theorem exec_bl (c : Cond) (imm24 : BitVec 24) (s : State) :
    exec (.bl c imm24) s = .next (if condPassed c.code s.cpsr then
      ((s.write lr s.linkValue).branchBy (branchOffset imm24)) else s) := 
  whenPassed_eq c s fun s => .ok ((s.write lr s.linkValue).branchBy (branchOffset imm24))

theorem exec_cpLsClass (c : Cond) (s : State) :
    exec (.cpLsClass c) s = .next (if condPassed c.code s.cpsr then
      (stub .coprocessor s).settle else s) := 
  whenPassed_eq c s fun s => stub .coprocessor s

theorem exec_cpOpClass (c : Cond) (s : State) :
    exec (.cpOpClass c) s = .next (if condPassed c.code s.cpsr then
      (stub .coprocessor s).settle else s) := 
  whenPassed_eq c s fun s => stub .coprocessor s

theorem exec_swi (c : Cond) (s : State) :
    exec (.swi c) s = .next (if condPassed c.code s.cpsr then
      (stub .softwareInterrupt s).settle else s) := 
  whenPassed_eq c s fun s => stub .softwareInterrupt s

theorem exec_blxImm (h : Bool) (imm24 : BitVec 24) (s : State) :
    exec (.blxImm h imm24) s = .next (((s.write lr s.linkValue).branchBy (blxOffset h imm24)).setT true) := rfl

/-- An instruction whose condition fails changes nothing (R165). -/
theorem exec_of_condition_failed (i : Instr) (s : State) (h : condPassed i.condCode s.cpsr = false) : exec i s = .next s := by
  cases i <;> simp only [Instr.condCode] at h
  · rw [exec_andImm, h, if_neg (by decide)]
  · rw [exec_andShImm, h, if_neg (by decide)]
  · rw [exec_andShReg, h, if_neg (by decide)]
  · rw [exec_eorImm, h, if_neg (by decide)]
  · rw [exec_eorShImm, h, if_neg (by decide)]
  · rw [exec_eorShReg, h, if_neg (by decide)]
  · rw [exec_subImm, h, if_neg (by decide)]
  · rw [exec_subShImm, h, if_neg (by decide)]
  · rw [exec_subShReg, h, if_neg (by decide)]
  · rw [exec_rsbImm, h, if_neg (by decide)]
  · rw [exec_rsbShImm, h, if_neg (by decide)]
  · rw [exec_rsbShReg, h, if_neg (by decide)]
  · rw [exec_addImm, h, if_neg (by decide)]
  · rw [exec_addShImm, h, if_neg (by decide)]
  · rw [exec_addShReg, h, if_neg (by decide)]
  · rw [exec_adcImm, h, if_neg (by decide)]
  · rw [exec_adcShImm, h, if_neg (by decide)]
  · rw [exec_adcShReg, h, if_neg (by decide)]
  · rw [exec_sbcImm, h, if_neg (by decide)]
  · rw [exec_sbcShImm, h, if_neg (by decide)]
  · rw [exec_sbcShReg, h, if_neg (by decide)]
  · rw [exec_rscImm, h, if_neg (by decide)]
  · rw [exec_rscShImm, h, if_neg (by decide)]
  · rw [exec_rscShReg, h, if_neg (by decide)]
  · rw [exec_tstImm, h, if_neg (by decide)]
  · rw [exec_tstShImm, h, if_neg (by decide)]
  · rw [exec_tstShReg, h, if_neg (by decide)]
  · rw [exec_teqImm, h, if_neg (by decide)]
  · rw [exec_teqShImm, h, if_neg (by decide)]
  · rw [exec_teqShReg, h, if_neg (by decide)]
  · rw [exec_cmpImm, h, if_neg (by decide)]
  · rw [exec_cmpShImm, h, if_neg (by decide)]
  · rw [exec_cmpShReg, h, if_neg (by decide)]
  · rw [exec_cmnImm, h, if_neg (by decide)]
  · rw [exec_cmnShImm, h, if_neg (by decide)]
  · rw [exec_cmnShReg, h, if_neg (by decide)]
  · rw [exec_orrImm, h, if_neg (by decide)]
  · rw [exec_orrShImm, h, if_neg (by decide)]
  · rw [exec_orrShReg, h, if_neg (by decide)]
  · rw [exec_movImm, h, if_neg (by decide)]
  · rw [exec_movShImm, h, if_neg (by decide)]
  · rw [exec_movShReg, h, if_neg (by decide)]
  · rw [exec_bicImm, h, if_neg (by decide)]
  · rw [exec_bicShImm, h, if_neg (by decide)]
  · rw [exec_bicShReg, h, if_neg (by decide)]
  · rw [exec_mvnImm, h, if_neg (by decide)]
  · rw [exec_mvnShImm, h, if_neg (by decide)]
  · rw [exec_mvnShReg, h, if_neg (by decide)]
  · rw [exec_mrs, h, if_neg (by decide)]
  · rw [exec_msrReg, h, if_neg (by decide)]
  · rw [exec_msrImm, h, if_neg (by decide)]
  · rw [exec_bx, h, if_neg (by decide)]
  · rw [exec_blxReg, h, if_neg (by decide)]
  · rw [exec_clz, h, if_neg (by decide)]
  · rw [exec_qadd, h, if_neg (by decide)]
  · rw [exec_qsub, h, if_neg (by decide)]
  · rw [exec_qdadd, h, if_neg (by decide)]
  · rw [exec_qdsub, h, if_neg (by decide)]
  · rw [exec_smulClass, h, if_neg (by decide)]
  · rw [exec_mulClass, h, if_neg (by decide)]
  · rw [exec_xlsClassH, h, if_neg (by decide)]
  · rw [exec_xlsClassSb, h, if_neg (by decide)]
  · rw [exec_xlsClassSh, h, if_neg (by decide)]
  · rw [exec_lsImmClass, h, if_neg (by decide)]
  · rw [exec_lsRegClass, h, if_neg (by decide)]
  · rw [exec_mediaClass, h, if_neg (by decide)]
  · rw [exec_ldm, h, if_neg (by decide)]
  · rw [exec_ldmUser, h, if_neg (by decide)]
  · rw [exec_ldmRet, h, if_neg (by decide)]
  · rw [exec_stm, h, if_neg (by decide)]
  · rw [exec_stmUser, h, if_neg (by decide)]
  · rw [exec_stmSPc, h, if_neg (by decide)]
  · rw [exec_b, h, if_neg (by decide)]
  · rw [exec_bl, h, if_neg (by decide)]
  · rw [exec_cpLsClass, h, if_neg (by decide)]
  · rw [exec_cpOpClass, h, if_neg (by decide)]
  · rw [exec_swi, h, if_neg (by decide)]
  · cases h

end Sys2Proof.Machine
end

