-- ==== Sys2Proof/Laws/Effect.lean ====
section
/-! SUPPORT. What one instruction can do to the state, said once over all 78 instructions: the ten shapes of `Effect`. A rule of the
whole machine is a case analysis over them. -/

namespace Sys2Proof.Machine

/-- The instructions that can take CPSR from SPSR: a writing opcode with S = 1 and Rd = 15 (R212), and LDM_RET (R261). -/
def ReturnsMode (i : Instr) : Prop :=
  (∃ c rn o, i ∈ dpWriters c true rn 15 o) ∨ (∃ c p u w rn list, i = .ldmRet c p u w rn list)

/-- The instructions that can write CPSR's control byte: MSR with the c bit of the mask (R281). -/
def WritesControl (i : Instr) : Prop :=
  (∃ c mask rm, i = .msrReg c .cpsr mask rm ∧ mask.getLsbD 0 = true) ∨
  (∃ c mask rot imm8, i = .msrImm c .cpsr mask rot imm8 ∧ mask.getLsbD 0 = true)

/-- What an instruction executed in `s` can leave. The bits `0xDF` of CPSR are I, F and the mode field. -/
inductive Effect (i : Instr) (s : State) : State → Prop
  /-- Registers of the active file and CPSR outside I, F, M. -/
  | plain (r : Vector Word 16) (c : Word) (hc : c &&& 0xDF = s.cpsr &&& 0xDF) : Effect i s { s with regs := r, cpsr := c }
  /-- A precise fatal error. -/
  | halt (f : Fault) : Effect i s (s.haltedBy f)
  /-- MSR to SPSR. -/
  | spsr (v : Word) (h : s.mode.hasSpsr = true) : Effect i s { s with spsr := v }
  /-- A return: the mode is SPSR's. -/
  | ret (r : Vector Word 16) (c : Word) (m : Mode) (h : s.mode.hasSpsr = true) (hm : modeOf (modeField c) = some m)
      (hi : ReturnsMode i) : Effect i s (({ s with regs := r, cpsr := c } : State).switchMode m)
  /-- MSR to CPSR: User mode keeps the control byte, and without the c bit every mode does. -/
  | msr (c : Word) (m : Mode) (hm : modeOf (modeField c) = some m)
      (hk : c &&& 0xFF = s.cpsr &&& 0xFF ∨ (s.mode ≠ .usr ∧ WritesControl i)) :
      Effect i s (({ s with cpsr := c } : State).switchMode m)
  /-- A block load stopped by `AddressError`. -/
  | loadErr (r : Vector Word 16) (c a : Word) (hc : c &&& 0xDF = s.cpsr &&& 0xDF) (hi : isBlockTransfer i = true) :
      Effect i s (({ s with regs := r, cpsr := c } : State).haltedBy (.addressError a))
  /-- A block store. -/
  | store (r : Vector Word 16) (mem : Memory) (hz : mem.size = s.mem.size) (hw : s.mem.wf = true → mem.wf = true)
      (hi : isStore i = true) : Effect i s { s with regs := r, mem := mem }
  /-- A block store stopped by `AddressError`. -/
  | storeErr (r : Vector Word 16) (mem : Memory) (a : Word) (hz : mem.size = s.mem.size)
      (hw : s.mem.wf = true → mem.wf = true) (hi : isStore i = true) :
      Effect i s (({ s with regs := r, mem := mem } : State).haltedBy (.addressError a))
  /-- A User-bank transfer; `u` is the state it ran in, with the User bank visible. Memory changes in a store only. -/
  | user (r r' : Vector Word 16) (c : Word) (mem : Memory) (hc : c &&& 0xDF = s.cpsr &&& 0xDF) (hz : mem.size = s.mem.size)
      (hw : s.mem.wf = true → mem.wf = true) (hi : isStore i = true ∨ mem = s.mem) :
      Effect i s (({ ({ s with regs := r } : State).switchMode .usr with regs := r', cpsr := c, mem := mem } : State).switchMode
        s.mode)
  /-- A User-bank transfer stopped by `AddressError`: the User bank stays visible. -/
  | userErr (r r' : Vector Word 16) (c : Word) (mem : Memory) (a : Word) (hc : c &&& 0xDF = s.cpsr &&& 0xDF)
      (hz : mem.size = s.mem.size) (hw : s.mem.wf = true → mem.wf = true) (hi : isStore i = true ∨ mem = s.mem)
      (hb : isBlockTransfer i = true) :
      Effect i s (({ ({ s with regs := r } : State).switchMode .usr with regs := r', cpsr := c, mem := mem } : State).haltedBy
        (.addressError a))

/-! ## CPSR writes that keep I, F and M -/

theorem and_setBit (v m : Word) (i : Nat) (b : Bool) (h : m &&& (1#32 <<< i) = 0) : setBit v i b &&& m = v &&& m := by
  have hm : ~~~(1#32 <<< i) &&& m = m := by
    apply BitVec.eq_of_getLsbD_eq
    intro k hk
    have := congrArg (fun x : Word => x.getLsbD k) h
    simp only [BitVec.getLsbD_and] at this
    simp only [BitVec.getLsbD_and, BitVec.getLsbD_not, hk, decide_true, Bool.true_and]
    revert this
    cases (1#32 <<< i).getLsbD k <;> cases m.getLsbD k <;> simp
  unfold setBit
  split
  · rw [BitVec.and_comm, BitVec.and_or_distrib_left, h, show (0 : Word) = 0#32 from rfl, BitVec.or_zero, BitVec.and_comm]
  · rw [BitVec.and_assoc, hm]

theorem control_withNZCV (v : Word) (n z c o : Bool) : withNZCV v n z c o &&& 0xDF = v &&& 0xDF := by
  unfold withNZCV
  rw [and_setBit _ _ _ _ (by decide), and_setBit _ _ _ _ (by decide), and_setBit _ _ _ _ (by decide),
    and_setBit _ _ _ _ (by decide)]

theorem control_withT (v : Word) (t : Bool) : withT v t &&& 0xDF = v &&& 0xDF := and_setBit _ _ _ _ (by decide)

/-- The mode field is inside the bits `0xDF`. -/
theorem modeField_of_control {a b : Word} (h : a &&& 0xDF = b &&& 0xDF) : modeField a = modeField b := by
  have e : ∀ x : Word, modeField x = modeField (x &&& 0xDF) := by
    intro x
    apply BitVec.eq_of_getLsbD_eq
    intro k hk
    have : (0xDF : Word).getLsbD k = true := by interval_cases k <;> rfl
    simp only [modeField, BitVec.getLsbD_extractLsb', BitVec.getLsbD_and, Nat.zero_add, this, Bool.and_true]
  rw [e a, e b, h]

theorem control_of_byte {a b : Word} (h : a &&& 0xFF = b &&& 0xFF) : a &&& 0xDF = b &&& 0xDF := by
  have e : ∀ x : Word, x &&& 0xDF = (x &&& 0xFF) &&& 0xDF := fun x => by
    rw [BitVec.and_assoc]; rfl
  rw [e a, e b, h]

theorem control_loadBlock {a b : Word} (h : a = b ∨ a = b ||| 0x20) : a &&& 0xDF = b &&& 0xDF := by
  rcases h with rfl | rfl
  · rfl
  · rw [← withT_true]; exact control_withT b true

/-! ## The shapes, operation by operation -/

theorem Effect.same (i : Instr) (s : State) : Effect i s s := Effect.plain (i := i) (s := s) s.regs s.cpsr rfl

theorem Effect.ofReturn {i : Instr} (s : State) (r : Word) (hi : ReturnsMode i) : Effect i s (returnResult s r) := by
  unfold returnResult
  split
  · exact .halt _
  · next hu =>
    split
    · exact .halt _
    · next m hm => exact .ret _ _ m ((hasSpsr_true_iff _).2 (not_or.1 hu)) hm hi

theorem Effect.ofWriter {i : Instr} {c : Cond} {sf : Bool} {rn rd : RegIdx} {o : Operand2} (s : State) (out : AluOut)
    (hi : i ∈ dpWriters c sf rn rd o) : Effect i s (dpWrite sf rd out s).settle := by
  rw [dpWrite_settle]
  unfold dpResult
  split
  · exact .plain _ _ rfl
  · next hs =>
    split
    · next h15 =>
      subst h15
      have : sf = true := by simpa using hs
      subst this
      exact .ofReturn s _ (.inl ⟨c, rn, o, hi⟩)
    · exact .plain _ _ (control_withNZCV ..)

theorem Effect.ofCompare (i : Instr) (s : State) (out : AluOut) : Effect i s (dpCompare out s).settle := by
  rw [dpCompare_settle]
  exact .plain _ _ (control_withNZCV ..)

theorem Effect.ofMrs (i : Instr) (s : State) (p : Psr) (rd : RegIdx) : Effect i s (runMrs p rd s).settle := by
  cases p with
  | cpsr => exact .plain _ _ rfl
  | spsr =>
    unfold runMrs
    simp only
    rw [State.checkSpsr_eq]
    split
    · exact .halt _
    · exact .plain _ _ rfl

theorem low_fieldMask (mask : BitVec 4) : fieldMask mask &&& 0xFF = if mask.getLsbD 0 then 0xFF else 0 := by
  revert mask; decide

theorem mergeMask_low {old v m : Word} (h : m &&& 0xFF = 0) : mergeMask old v m &&& 0xFF = old &&& 0xFF := by
  have hm : ~~~m &&& 0xFF = 0xFF := by
    apply BitVec.eq_of_getLsbD_eq
    intro k hk
    have := congrArg (fun x : Word => x.getLsbD k) h
    simp only [BitVec.getLsbD_and] at this
    simp only [BitVec.getLsbD_and, BitVec.getLsbD_not, hk, decide_true, Bool.true_and]
    revert this
    cases m.getLsbD k <;> cases (0xFF : Word).getLsbD k <;> simp
  unfold mergeMask
  rw [BitVec.and_comm, BitVec.and_or_distrib_left, BitVec.and_comm _ (old &&& ~~~m), BitVec.and_assoc, hm,
    BitVec.and_comm _ (v &&& m), BitVec.and_assoc, h, show (0 : Word) = 0#32 from rfl, BitVec.and_zero, BitVec.or_zero]

theorem Effect.ofMsr {i : Instr} (s : State) (p : Psr) (mask : BitVec 4) (v : Word)
    (hi : p = .cpsr → mask.getLsbD 0 = true → WritesControl i) : Effect i s (runMsr p mask v s).settle := by
  cases p with
  | spsr =>
    unfold runMsr
    simp only
    rw [State.checkSpsr_eq]
    split
    · exact .halt _
    · next h => exact .spsr _ ((hasSpsr_true_iff _).2 (not_or.1 h))
  | cpsr =>
    unfold runMsr
    simp only
    cases hm : modeOf (modeField (mergeMask s.cpsr v (cpsrMask s.mode mask))) with
    | none => rw [State.writeCpsr_of_none hm]; exact .halt _
    | some m =>
      rw [State.writeCpsr_of_some hm]
      refine .msr _ m hm ?_
      by_cases hu : s.mode = .usr
      · refine .inl (mergeMask_low ?_)
        rw [hu]
        show fieldMask mask &&& 0xFFFFFF00 &&& 0xFF = 0
        rw [BitVec.and_assoc]
        exact BitVec.and_zero
      · have hc : cpsrMask s.mode mask = fieldMask mask := by
          unfold cpsrMask
          have : s.mode.privileged = true := by revert hu; cases s.mode <;> decide
          rw [if_pos this]
        rw [hc]
        cases hb : mask.getLsbD 0 with
        | false => exact .inl (mergeMask_low (by rw [low_fieldMask, hb]; rfl))
        | true => exact .inr ⟨hu, hi rfl hb⟩

theorem Effect.ofLoad {i : Instr} (s : State) (p u w : Bool) (rn : RegIdx) (list : BitVec 16) (hi : isBlockTransfer i = true) :
    Effect i s (runLoad p u w rn list s).settle := by
  unfold runLoad
  rw [State.writeBack_eq, afterWriteBack_rest s u w rn list]
  generalize (afterWriteBack s u w rn list).regs = r
  rcases loadBlock_frame (listedRegs list) (blockStart p u (s.read rn) list) { s with regs := r } with
    ⟨t, e, ht, hc⟩ | ⟨t, b, e, ht, hc⟩
  · rw [e, Run.settle_ok, ht]; exact .plain _ _ (control_loadBlock hc)
  · rw [e, Run.settle_err, ht]; exact .loadErr _ _ _ (control_loadBlock hc) hi

theorem Effect.ofStore {i : Instr} (s : State) (p u w : Bool) (rn : RegIdx) (list : BitVec 16) (hi : isStore i = true) :
    Effect i s (runStore p u w rn list s).settle := by
  unfold runStore
  rw [State.writeBack_eq, afterWriteBack_rest s u w rn list]
  generalize (afterWriteBack s u w rn list).regs = r
  rcases storeBlock_frame (listedRegs list) (blockStart p u (s.read rn) list) { s with regs := r } with
    ⟨t, e, ht, hz, hw⟩ | ⟨t, b, e, ht, hz, hw⟩
  · rw [e, Run.settle_ok, ht]; exact .store _ _ hz hw hi
  · rw [e, Run.settle_err, ht]; exact .storeErr _ _ _ hz hw hi

theorem Effect.ofUserLoad {i : Instr} (s : State) (l : List RegIdx) (a : Word) (u w : Bool) (rn : RegIdx) (list : BitVec 16)
    (hb : isBlockTransfer i = true) : Effect i s ((s.writeBack u w rn list).asUser (loadBlock l a)).settle := by
  rw [State.writeBack_eq, afterWriteBack_rest s u w rn list]
  generalize (afterWriteBack s u w rn list).regs = r
  unfold State.asUser
  rcases loadBlock_frame l a (({ s with regs := r } : State).switchMode .usr) with ⟨t, e, ht, hc⟩ | ⟨t, b, e, ht, hc⟩ <;>
    rw [State.switchMode_cpsr] at hc
  · rw [e, Run.andThen_ok, Run.settle_ok, ht]
    exact .user r _ _ _ (control_loadBlock hc) (by simp) (by simp) (.inr (by simp))
  · rw [e, Run.andThen_err, Run.settle_err, ht]
    exact .userErr r _ _ _ _ (control_loadBlock hc) (by simp) (by simp) (.inr (by simp)) hb

theorem Effect.ofUserStore {i : Instr} (s : State) (l : List RegIdx) (a : Word) (u w : Bool) (rn : RegIdx) (list : BitVec 16)
    (hi : isStore i = true) (hb : isBlockTransfer i = true) :
    Effect i s ((s.writeBack u w rn list).asUser (storeBlock l a)).settle := by
  rw [State.writeBack_eq, afterWriteBack_rest s u w rn list]
  generalize (afterWriteBack s u w rn list).regs = r
  unfold State.asUser
  rcases storeBlock_frame l a (({ s with regs := r } : State).switchMode .usr) with
    ⟨t, e, ht, hz, hw⟩ | ⟨t, b, e, ht, hz, hw⟩ <;> rw [State.switchMode_mem] at hz hw
  · rw [e, Run.andThen_ok, Run.settle_ok, ht]
    exact .user r _ _ _ (by simp) hz hw (.inl hi)
  · rw [e, Run.andThen_err, Run.settle_err, ht]
    exact .userErr r _ _ _ _ (by simp) hz hw (.inl hi) hb

theorem Effect.ofLoadReturn {i : Instr} (s : State) (p u w : Bool) (rn : RegIdx) (list : BitVec 16)
    (hb : isBlockTransfer i = true) (hi : ReturnsMode i) :
    Effect i s (s.checkReturn.andThen fun s => (runLoad p u w rn list s).andThen fun t => t.writeCpsr t.spsr).settle := by
  rcases s.checkReturn_cases with ⟨-, e⟩ | ⟨-, -, e⟩ | ⟨h, m, hm, e⟩
  · rw [e]; exact .halt _
  · rw [e]; exact .halt _
  · rw [e, Run.andThen_ok]
    unfold runLoad
    rw [State.writeBack_eq, afterWriteBack_rest s u w rn list]
    generalize (afterWriteBack s u w rn list).regs = r
    rcases loadBlock_frame (listedRegs list) (blockStart p u (s.read rn) list) { s with regs := r } with
      ⟨t, e, ht, hc⟩ | ⟨t, b, e, ht, hc⟩
    · have hs : t.spsr = s.spsr := by rw [ht]
      rw [e, Run.andThen_ok, State.writeCpsr_of_some (show modeOf (modeField t.spsr) = some m by rw [hs]; exact hm), ht]
      exact .ret _ _ m ((hasSpsr_true_iff _).2 h) hm hi
    · rw [e, Run.andThen_err, Run.settle_err, ht]
      exact .loadErr _ _ _ (control_loadBlock hc) hb

/-- The gate adds only the no-op (R165). -/
theorem Effect.gate {i : Instr} {s : State} {out : Host.Outcome State Fault Refusal} {b : Bool} {t : State}
    (h : out = .next (if b then t else s)) (e : Effect i s t) : ∃ t, out = .next t ∧ Effect i s t :=
  ⟨_, h, by split; exacts [e, .same i s]⟩

/-! ## Every instruction -/

/-- Every instruction answers a next state, of one of the shapes of `Effect`. -/
theorem exec_effect (i : Instr) (s : State) : ∃ t, exec i s = .next t ∧ Effect i s t := by
  cases i
  case andImm c sf rn rd rot imm8 =>
    exact Effect.gate (exec_andImm ..) (.ofWriter (c := c) (rn := rn) (o := .imm rot imm8) s _ (by simp [dpWriters, andI]))
  case andShImm c sf rn rd amt ty rm =>
    exact Effect.gate (exec_andShImm ..) (.ofWriter (c := c) (rn := rn) (o := .shImm amt ty rm) s _ (by simp [dpWriters, andI]))
  case andShReg c sf rn rd rs ty rm =>
    exact Effect.gate (exec_andShReg ..) (.ofWriter (c := c) (rn := rn) (o := .shReg rs ty rm) s _ (by simp [dpWriters, andI]))
  case eorImm c sf rn rd rot imm8 =>
    exact Effect.gate (exec_eorImm ..) (.ofWriter (c := c) (rn := rn) (o := .imm rot imm8) s _ (by simp [dpWriters, eorI]))
  case eorShImm c sf rn rd amt ty rm =>
    exact Effect.gate (exec_eorShImm ..) (.ofWriter (c := c) (rn := rn) (o := .shImm amt ty rm) s _ (by simp [dpWriters, eorI]))
  case eorShReg c sf rn rd rs ty rm =>
    exact Effect.gate (exec_eorShReg ..) (.ofWriter (c := c) (rn := rn) (o := .shReg rs ty rm) s _ (by simp [dpWriters, eorI]))
  case subImm c sf rn rd rot imm8 =>
    exact Effect.gate (exec_subImm ..) (.ofWriter (c := c) (rn := rn) (o := .imm rot imm8) s _ (by simp [dpWriters, subI]))
  case subShImm c sf rn rd amt ty rm =>
    exact Effect.gate (exec_subShImm ..) (.ofWriter (c := c) (rn := rn) (o := .shImm amt ty rm) s _ (by simp [dpWriters, subI]))
  case subShReg c sf rn rd rs ty rm =>
    exact Effect.gate (exec_subShReg ..) (.ofWriter (c := c) (rn := rn) (o := .shReg rs ty rm) s _ (by simp [dpWriters, subI]))
  case rsbImm c sf rn rd rot imm8 =>
    exact Effect.gate (exec_rsbImm ..) (.ofWriter (c := c) (rn := rn) (o := .imm rot imm8) s _ (by simp [dpWriters, rsbI]))
  case rsbShImm c sf rn rd amt ty rm =>
    exact Effect.gate (exec_rsbShImm ..) (.ofWriter (c := c) (rn := rn) (o := .shImm amt ty rm) s _ (by simp [dpWriters, rsbI]))
  case rsbShReg c sf rn rd rs ty rm =>
    exact Effect.gate (exec_rsbShReg ..) (.ofWriter (c := c) (rn := rn) (o := .shReg rs ty rm) s _ (by simp [dpWriters, rsbI]))
  case addImm c sf rn rd rot imm8 =>
    exact Effect.gate (exec_addImm ..) (.ofWriter (c := c) (rn := rn) (o := .imm rot imm8) s _ (by simp [dpWriters, addI]))
  case addShImm c sf rn rd amt ty rm =>
    exact Effect.gate (exec_addShImm ..) (.ofWriter (c := c) (rn := rn) (o := .shImm amt ty rm) s _ (by simp [dpWriters, addI]))
  case addShReg c sf rn rd rs ty rm =>
    exact Effect.gate (exec_addShReg ..) (.ofWriter (c := c) (rn := rn) (o := .shReg rs ty rm) s _ (by simp [dpWriters, addI]))
  case adcImm c sf rn rd rot imm8 =>
    exact Effect.gate (exec_adcImm ..) (.ofWriter (c := c) (rn := rn) (o := .imm rot imm8) s _ (by simp [dpWriters, adcI]))
  case adcShImm c sf rn rd amt ty rm =>
    exact Effect.gate (exec_adcShImm ..) (.ofWriter (c := c) (rn := rn) (o := .shImm amt ty rm) s _ (by simp [dpWriters, adcI]))
  case adcShReg c sf rn rd rs ty rm =>
    exact Effect.gate (exec_adcShReg ..) (.ofWriter (c := c) (rn := rn) (o := .shReg rs ty rm) s _ (by simp [dpWriters, adcI]))
  case sbcImm c sf rn rd rot imm8 =>
    exact Effect.gate (exec_sbcImm ..) (.ofWriter (c := c) (rn := rn) (o := .imm rot imm8) s _ (by simp [dpWriters, sbcI]))
  case sbcShImm c sf rn rd amt ty rm =>
    exact Effect.gate (exec_sbcShImm ..) (.ofWriter (c := c) (rn := rn) (o := .shImm amt ty rm) s _ (by simp [dpWriters, sbcI]))
  case sbcShReg c sf rn rd rs ty rm =>
    exact Effect.gate (exec_sbcShReg ..) (.ofWriter (c := c) (rn := rn) (o := .shReg rs ty rm) s _ (by simp [dpWriters, sbcI]))
  case rscImm c sf rn rd rot imm8 =>
    exact Effect.gate (exec_rscImm ..) (.ofWriter (c := c) (rn := rn) (o := .imm rot imm8) s _ (by simp [dpWriters, rscI]))
  case rscShImm c sf rn rd amt ty rm =>
    exact Effect.gate (exec_rscShImm ..) (.ofWriter (c := c) (rn := rn) (o := .shImm amt ty rm) s _ (by simp [dpWriters, rscI]))
  case rscShReg c sf rn rd rs ty rm =>
    exact Effect.gate (exec_rscShReg ..) (.ofWriter (c := c) (rn := rn) (o := .shReg rs ty rm) s _ (by simp [dpWriters, rscI]))
  case orrImm c sf rn rd rot imm8 =>
    exact Effect.gate (exec_orrImm ..) (.ofWriter (c := c) (rn := rn) (o := .imm rot imm8) s _ (by simp [dpWriters, orrI]))
  case orrShImm c sf rn rd amt ty rm =>
    exact Effect.gate (exec_orrShImm ..) (.ofWriter (c := c) (rn := rn) (o := .shImm amt ty rm) s _ (by simp [dpWriters, orrI]))
  case orrShReg c sf rn rd rs ty rm =>
    exact Effect.gate (exec_orrShReg ..) (.ofWriter (c := c) (rn := rn) (o := .shReg rs ty rm) s _ (by simp [dpWriters, orrI]))
  case movImm c sf rd rot imm8 =>
    exact Effect.gate (exec_movImm ..) (.ofWriter (c := c) (rn := 0) (o := .imm rot imm8) s _ (by simp [dpWriters, movI]))
  case movShImm c sf rd amt ty rm =>
    exact Effect.gate (exec_movShImm ..) (.ofWriter (c := c) (rn := 0) (o := .shImm amt ty rm) s _ (by simp [dpWriters, movI]))
  case movShReg c sf rd rs ty rm =>
    exact Effect.gate (exec_movShReg ..) (.ofWriter (c := c) (rn := 0) (o := .shReg rs ty rm) s _ (by simp [dpWriters, movI]))
  case bicImm c sf rn rd rot imm8 =>
    exact Effect.gate (exec_bicImm ..) (.ofWriter (c := c) (rn := rn) (o := .imm rot imm8) s _ (by simp [dpWriters, bicI]))
  case bicShImm c sf rn rd amt ty rm =>
    exact Effect.gate (exec_bicShImm ..) (.ofWriter (c := c) (rn := rn) (o := .shImm amt ty rm) s _ (by simp [dpWriters, bicI]))
  case bicShReg c sf rn rd rs ty rm =>
    exact Effect.gate (exec_bicShReg ..) (.ofWriter (c := c) (rn := rn) (o := .shReg rs ty rm) s _ (by simp [dpWriters, bicI]))
  case mvnImm c sf rd rot imm8 =>
    exact Effect.gate (exec_mvnImm ..) (.ofWriter (c := c) (rn := 0) (o := .imm rot imm8) s _ (by simp [dpWriters, mvnI]))
  case mvnShImm c sf rd amt ty rm =>
    exact Effect.gate (exec_mvnShImm ..) (.ofWriter (c := c) (rn := 0) (o := .shImm amt ty rm) s _ (by simp [dpWriters, mvnI]))
  case mvnShReg c sf rd rs ty rm =>
    exact Effect.gate (exec_mvnShReg ..) (.ofWriter (c := c) (rn := 0) (o := .shReg rs ty rm) s _ (by simp [dpWriters, mvnI]))
  case tstImm => exact Effect.gate (exec_tstImm ..) (.ofCompare _ s _)
  case tstShImm => exact Effect.gate (exec_tstShImm ..) (.ofCompare _ s _)
  case tstShReg => exact Effect.gate (exec_tstShReg ..) (.ofCompare _ s _)
  case teqImm => exact Effect.gate (exec_teqImm ..) (.ofCompare _ s _)
  case teqShImm => exact Effect.gate (exec_teqShImm ..) (.ofCompare _ s _)
  case teqShReg => exact Effect.gate (exec_teqShReg ..) (.ofCompare _ s _)
  case cmpImm => exact Effect.gate (exec_cmpImm ..) (.ofCompare _ s _)
  case cmpShImm => exact Effect.gate (exec_cmpShImm ..) (.ofCompare _ s _)
  case cmpShReg => exact Effect.gate (exec_cmpShReg ..) (.ofCompare _ s _)
  case cmnImm => exact Effect.gate (exec_cmnImm ..) (.ofCompare _ s _)
  case cmnShImm => exact Effect.gate (exec_cmnShImm ..) (.ofCompare _ s _)
  case cmnShReg => exact Effect.gate (exec_cmnShReg ..) (.ofCompare _ s _)
  case mrs => exact Effect.gate (exec_mrs ..) (.ofMrs _ s _ _)
  case msrReg c p mask rm =>
    exact Effect.gate (exec_msrReg ..) (.ofMsr s p mask _ fun hp h => .inl ⟨c, mask, rm, by rw [hp], h⟩)
  case msrImm c p mask rot imm8 =>
    exact Effect.gate (exec_msrImm ..) (.ofMsr s p mask _ fun hp h => .inr ⟨c, mask, rot, imm8, by rw [hp], h⟩)
  case bx => exact Effect.gate (exec_bx ..) (.plain _ _ (control_withT ..))
  case blxReg => exact Effect.gate (exec_blxReg ..) (.plain _ _ (control_withT ..))
  case clz => exact Effect.gate (exec_clz ..) (.plain _ _ rfl)
  case qadd => exact Effect.gate (exec_qadd ..) (.halt _)
  case qsub => exact Effect.gate (exec_qsub ..) (.halt _)
  case qdadd => exact Effect.gate (exec_qdadd ..) (.halt _)
  case qdsub => exact Effect.gate (exec_qdsub ..) (.halt _)
  case smulClass => exact Effect.gate (exec_smulClass ..) (.halt _)
  case mulClass => exact Effect.gate (exec_mulClass ..) (.halt _)
  case xlsClassH => exact Effect.gate (exec_xlsClassH ..) (.halt _)
  case xlsClassSb => exact Effect.gate (exec_xlsClassSb ..) (.halt _)
  case xlsClassSh => exact Effect.gate (exec_xlsClassSh ..) (.halt _)
  case lsImmClass => exact Effect.gate (exec_lsImmClass ..) (.halt _)
  case lsRegClass => exact Effect.gate (exec_lsRegClass ..) (.halt _)
  case mediaClass => exact Effect.gate (exec_mediaClass ..) (.halt _)
  case cpLsClass => exact Effect.gate (exec_cpLsClass ..) (.halt _)
  case cpOpClass => exact Effect.gate (exec_cpOpClass ..) (.halt _)
  case swi => exact Effect.gate (exec_swi ..) (.halt _)
  case ldm => exact Effect.gate (exec_ldm ..) (.ofLoad s _ _ _ _ _ rfl)
  case ldmUser => exact Effect.gate (exec_ldmUser ..) (.ofUserLoad s _ _ _ _ _ _ rfl)
  case ldmRet c p u w rn list =>
    exact Effect.gate (exec_ldmRet ..) (.ofLoadReturn s _ _ _ _ _ rfl (.inr ⟨c, p, u, w, rn, list, rfl⟩))
  case stm => exact Effect.gate (exec_stm ..) (.ofStore s _ _ _ _ _ rfl)
  case stmUser => exact Effect.gate (exec_stmUser ..) (.ofUserStore s _ _ _ _ _ _ rfl rfl)
  case stmSPc => exact Effect.gate (exec_stmSPc ..) (.ofStore s _ _ _ _ _ rfl)
  case b => exact Effect.gate (exec_b ..) (.plain _ _ rfl)
  case bl => exact Effect.gate (exec_bl ..) (.plain _ _ rfl)
  case blxImm => exact ⟨_, exec_blxImm .., .plain _ _ (control_withT ..)⟩

end Sys2Proof.Machine
end

