-- ==== Sys2Proof/Tests/Slice0.lean ====
section
/-! SUPPORT. The model's own tests: the smoke test of the well-formedness checks, one word per instruction written out bit by bit from
its encoding, steps whose results are the spec's own worked examples and vectors (`95_test_vectors.md`), and for each statement with
hypotheses the states and operands that meet them. -/

namespace Sys2Proof.Tests

open Sys2Proof.Machine

/-! ## Well-formedness: each check refuses a term -/

theorem test_ldmUser_listing_r15_is_refused : (Instr.ldmUser .al false true false 0 0x8000).wf = false := by decide
theorem test_stmUser_listing_r15_is_refused : (Instr.stmUser .al false true false 0 0x8001).wf = false := by decide
theorem test_ldmRet_without_r15_is_refused : (Instr.ldmRet .al false true true 13 0x7FFF).wf = false := by decide
theorem test_stmSPc_without_r15_is_refused : (Instr.stmSPc .al false true true 13 0x0001).wf = false := by decide
theorem test_lists_of_the_other_bit_are_accepted :
    (Instr.ldmUser .al false true false 0 0x7FFF).wf = true ∧ (Instr.stmUser .al false true false 0 0).wf = true ∧
    (Instr.ldmRet .al false true true 13 0x8000).wf = true ∧ (Instr.stmSPc .al false true true 13 0xFFFF).wf = true := by decide

/-! ## Decoding: words written out from the encodings of `30_encoding.md` -/

/-- Opcode 0000 (R214) in the formats of R92, R93 and R94. -/
theorem test_decode_and :
    decodeWord 0b0000_001_0000_1_1001_1100_0001_00111100 = .ok (.andImm .eq true 9 12 1 0x3c) ∧
    decodeWord 0b0001_000_0000_0_1110_1010_00010_10_0_1101 = .ok (.andShImm .ne false 14 10 2 .asr 13) ∧
    decodeWord 0b0010_000_0000_1_1001_1100_1101_0_00_1_0111 = .ok (.andShReg .cs true 9 12 13 .lsl 7) := by decide

/-- Opcode 0001 (R215) in the formats of R92, R93 and R94. -/
theorem test_decode_eor :
    decodeWord 0b0011_001_0001_0_1110_1010_1111_10000001 = .ok (.eorImm .cc false 14 10 15 0x81) ∧
    decodeWord 0b0100_000_0001_1_0101_0011_10101_01_0_0110 = .ok (.eorShImm .mi true 5 3 21 .lsr 6) ∧
    decodeWord 0b0101_000_0001_0_1110_1010_0100_0_11_1_1110 = .ok (.eorShReg .pl false 14 10 4 .ror 14) := by decide

/-- Opcode 0010 (R216) in the formats of R92, R93 and R94. -/
theorem test_decode_sub :
    decodeWord 0b0110_001_0010_1_0101_0011_1001_10100101 = .ok (.subImm .vs true 5 3 9 0xa5) ∧
    decodeWord 0b0111_000_0010_0_1001_1100_11111_11_0_1011 = .ok (.subShImm .vc false 9 12 31 .ror 11) ∧
    decodeWord 0b1000_000_0010_1_0101_0011_1011_0_10_1_0110 = .ok (.subShReg .hi true 5 3 11 .asr 6) := by decide

/-- Opcode 0011 (R217) in the formats of R92, R93 and R94. -/
theorem test_decode_rsb :
    decodeWord 0b1001_001_0011_0_1001_1100_0001_00111100 = .ok (.rsbImm .ls false 9 12 1 0x3c) ∧
    decodeWord 0b1010_000_0011_1_1110_1010_00010_10_0_1101 = .ok (.rsbShImm .ge true 14 10 2 .asr 13) ∧
    decodeWord 0b1011_000_0011_0_1001_1100_1101_0_00_1_0111 = .ok (.rsbShReg .lt false 9 12 13 .lsl 7) := by decide

/-- Opcode 0100 (R218) in the formats of R92, R93 and R94. -/
theorem test_decode_add :
    decodeWord 0b1100_001_0100_1_1110_1010_1111_10000001 = .ok (.addImm .gt true 14 10 15 0x81) ∧
    decodeWord 0b1101_000_0100_0_0101_0011_10101_01_0_0110 = .ok (.addShImm .le false 5 3 21 .lsr 6) ∧
    decodeWord 0b1110_000_0100_1_1110_1010_0100_0_11_1_1110 = .ok (.addShReg .al true 14 10 4 .ror 14) := by decide

/-- Opcode 0101 (R219) in the formats of R92, R93 and R94. -/
theorem test_decode_adc :
    decodeWord 0b0000_001_0101_0_0101_0011_1001_10100101 = .ok (.adcImm .eq false 5 3 9 0xa5) ∧
    decodeWord 0b0001_000_0101_1_1001_1100_11111_11_0_1011 = .ok (.adcShImm .ne true 9 12 31 .ror 11) ∧
    decodeWord 0b0010_000_0101_0_0101_0011_1011_0_10_1_0110 = .ok (.adcShReg .cs false 5 3 11 .asr 6) := by decide

/-- Opcode 0110 (R220) in the formats of R92, R93 and R94. -/
theorem test_decode_sbc :
    decodeWord 0b0011_001_0110_1_1001_1100_0001_00111100 = .ok (.sbcImm .cc true 9 12 1 0x3c) ∧
    decodeWord 0b0100_000_0110_0_1110_1010_00010_10_0_1101 = .ok (.sbcShImm .mi false 14 10 2 .asr 13) ∧
    decodeWord 0b0101_000_0110_1_1001_1100_1101_0_00_1_0111 = .ok (.sbcShReg .pl true 9 12 13 .lsl 7) := by decide

/-- Opcode 0111 (R221) in the formats of R92, R93 and R94. -/
theorem test_decode_rsc :
    decodeWord 0b0110_001_0111_0_1110_1010_1111_10000001 = .ok (.rscImm .vs false 14 10 15 0x81) ∧
    decodeWord 0b0111_000_0111_1_0101_0011_10101_01_0_0110 = .ok (.rscShImm .vc true 5 3 21 .lsr 6) ∧
    decodeWord 0b1000_000_0111_0_1110_1010_0100_0_11_1_1110 = .ok (.rscShReg .hi false 14 10 4 .ror 14) := by decide

/-- Opcode 1100 (R226) in the formats of R92, R93 and R94. -/
theorem test_decode_orr :
    decodeWord 0b1001_001_1100_1_0101_0011_1001_10100101 = .ok (.orrImm .ls true 5 3 9 0xa5) ∧
    decodeWord 0b1010_000_1100_0_1001_1100_11111_11_0_1011 = .ok (.orrShImm .ge false 9 12 31 .ror 11) ∧
    decodeWord 0b1011_000_1100_1_0101_0011_1011_0_10_1_0110 = .ok (.orrShReg .lt true 5 3 11 .asr 6) := by decide

/-- Opcode 1101 (R227) in the formats of R92, R93 and R94. -/
theorem test_decode_mov :
    decodeWord 0b1100_001_1101_0_1001_1100_0001_00111100 = .ok (.movImm .gt false 12 1 0x3c) ∧
    decodeWord 0b1101_000_1101_1_1110_1010_00010_10_0_1101 = .ok (.movShImm .le true 10 2 .asr 13) ∧
    decodeWord 0b1110_000_1101_0_1001_1100_1101_0_00_1_0111 = .ok (.movShReg .al false 12 13 .lsl 7) := by decide

/-- Opcode 1110 (R228) in the formats of R92, R93 and R94. -/
theorem test_decode_bic :
    decodeWord 0b0000_001_1110_1_1110_1010_1111_10000001 = .ok (.bicImm .eq true 14 10 15 0x81) ∧
    decodeWord 0b0001_000_1110_0_0101_0011_10101_01_0_0110 = .ok (.bicShImm .ne false 5 3 21 .lsr 6) ∧
    decodeWord 0b0010_000_1110_1_1110_1010_0100_0_11_1_1110 = .ok (.bicShReg .cs true 14 10 4 .ror 14) := by decide

/-- Opcode 1111 (R229) in the formats of R92, R93 and R94. -/
theorem test_decode_mvn :
    decodeWord 0b0011_001_1111_0_0101_0011_1001_10100101 = .ok (.mvnImm .cc false 3 9 0xa5) ∧
    decodeWord 0b0100_000_1111_1_1001_1100_11111_11_0_1011 = .ok (.mvnShImm .mi true 12 31 .ror 11) ∧
    decodeWord 0b0101_000_1111_0_0101_0011_1011_0_10_1_0110 = .ok (.mvnShReg .pl false 3 11 .asr 6) := by decide

/-- Opcode 1000 (R222) in the formats of R92, R93 and R94. -/
theorem test_decode_tst :
    decodeWord 0b0110_001_1000_1_1001_1100_0001_00111100 = .ok (.tstImm .vs 9 1 0x3c) ∧
    decodeWord 0b0111_000_1000_1_1110_1010_00010_10_0_1101 = .ok (.tstShImm .vc 14 2 .asr 13) ∧
    decodeWord 0b1000_000_1000_1_1001_1100_1101_0_00_1_0111 = .ok (.tstShReg .hi 9 13 .lsl 7) := by decide

/-- Opcode 1001 (R223) in the formats of R92, R93 and R94. -/
theorem test_decode_teq :
    decodeWord 0b1001_001_1001_1_1110_1010_1111_10000001 = .ok (.teqImm .ls 14 15 0x81) ∧
    decodeWord 0b1010_000_1001_1_0101_0011_10101_01_0_0110 = .ok (.teqShImm .ge 5 21 .lsr 6) ∧
    decodeWord 0b1011_000_1001_1_1110_1010_0100_0_11_1_1110 = .ok (.teqShReg .lt 14 4 .ror 14) := by decide

/-- Opcode 1010 (R224) in the formats of R92, R93 and R94. -/
theorem test_decode_cmp :
    decodeWord 0b1100_001_1010_1_0101_0011_1001_10100101 = .ok (.cmpImm .gt 5 9 0xa5) ∧
    decodeWord 0b1101_000_1010_1_1001_1100_11111_11_0_1011 = .ok (.cmpShImm .le 9 31 .ror 11) ∧
    decodeWord 0b1110_000_1010_1_0101_0011_1011_0_10_1_0110 = .ok (.cmpShReg .al 5 11 .asr 6) := by decide

/-- Opcode 1011 (R225) in the formats of R92, R93 and R94. -/
theorem test_decode_cmn :
    decodeWord 0b0000_001_1011_1_1001_1100_0001_00111100 = .ok (.cmnImm .eq 9 1 0x3c) ∧
    decodeWord 0b0001_000_1011_1_1110_1010_00010_10_0_1101 = .ok (.cmnShImm .ne 14 2 .asr 13) ∧
    decodeWord 0b0010_000_1011_1_1001_1100_1101_0_00_1_0111 = .ok (.cmnShReg .cs 9 13 .lsl 7) := by decide

/-- R99. -/
theorem test_decode_mrs : decodeWord 0b0001_00010_1_00_1111_0111_0000_0000_0000 = .ok (.mrs .ne .spsr 7) := by decide

/-- R100. -/
theorem test_decode_msr_reg : decodeWord 0b1010_00010_0_10_1001_1111_0000_0000_1101 = .ok (.msrReg .ge .cpsr 9 13) := by decide

/-- R100. -/
theorem test_decode_msr_imm : decodeWord 0b1110_00110_1_10_0110_1111_0010_11110000 = .ok (.msrImm .al .spsr 6 2 0xF0) := by decide

/-- R97. -/
theorem test_decode_bx : decodeWord 0b0000_0001_0010_1111_1111_1111_0001_0101 = .ok (.bx .eq 5) := by decide

/-- R97. -/
theorem test_decode_blx_reg : decodeWord 0b1011_0001_0010_1111_1111_1111_0011_1010 = .ok (.blxReg .lt 10) := by decide

/-- R101. -/
theorem test_decode_clz : decodeWord 0b1110_0001_0110_1111_0110_1111_0001_1001 = .ok (.clz .al 6 9) := by decide

/-- R301. -/
theorem test_decode_qadd : decodeWord 0b1110_00010000_0001_0010_0000_0101_0011 = .ok (.qadd .al) := by decide

/-- R301. -/
theorem test_decode_qsub : decodeWord 0b1110_00010010_0001_0010_0000_0101_0011 = .ok (.qsub .al) := by decide

/-- R301. -/
theorem test_decode_qdadd : decodeWord 0b0010_00010100_0001_0010_0000_0101_0011 = .ok (.qdadd .cs) := by decide

/-- R301. -/
theorem test_decode_qdsub : decodeWord 0b1110_00010110_0001_0010_0000_0101_0011 = .ok (.qdsub .al) := by decide

/-- R302. -/
theorem test_decode_smul : decodeWord 0b1110_00010_11_0_0001_0000_0010_1100_0011 = .ok (.smulClass .al) := by decide

/-- R300. -/
theorem test_decode_mul : decodeWord 0b0100_0000_0010_0001_0100_0011_1001_0010 = .ok (.mulClass .mi) := by decide

/-- R303. -/
theorem test_decode_xls_h : decodeWord 0b1110_000_1_1_1_0_1_0001_0010_0000_1011_0100 = .ok (.xlsClassH .al) := by decide

/-- R303. -/
theorem test_decode_xls_sb : decodeWord 0b1110_000_1_1_0_1_1_0001_0010_0000_1101_0100 = .ok (.xlsClassSb .al) := by decide

/-- R303. -/
theorem test_decode_xls_sh : decodeWord 0b1100_000_0_1_0_0_1_0001_0010_0000_1111_0100 = .ok (.xlsClassSh .gt) := by decide

/-- R304. -/
theorem test_decode_ls_imm : decodeWord 0b1110_010_1_1_0_0_1_0001_0010_000000000100 = .ok (.lsImmClass .al) := by decide

/-- R304. -/
theorem test_decode_ls_reg : decodeWord 0b1110_011_1_1_0_0_0_0001_0010_00010_01_0_0100 = .ok (.lsRegClass .al) := by decide

/-- R305. -/
theorem test_decode_media : decodeWord 0b1101_011_1_1_0_0_0_0001_0010_00010_01_1_0100 = .ok (.mediaClass .le) := by decide

/-- R98, R110. -/
theorem test_decode_ldm : decodeWord 0b1110_100_1_0_0_1_1_1101_1000000000000101 = .ok (.ldm .al true false true 13 0x8005) := by decide

/-- R98, R110. -/
theorem test_decode_ldm_user : decodeWord 0b0111_100_0_1_1_0_1_0011_0110000000000001 = .ok (.ldmUser .vc false true false 3 0x6001) := by decide

/-- R98, R110. -/
theorem test_decode_ldm_ret : decodeWord 0b1110_100_0_1_1_1_1_1101_1000000000000001 = .ok (.ldmRet .al false true true 13 0x8001) := by decide

/-- R98, R110. -/
theorem test_decode_stm : decodeWord 0b1000_100_1_0_0_1_0_1101_0100000000010000 = .ok (.stm .hi true false true 13 0x4010) := by decide

/-- R98, R110. -/
theorem test_decode_stm_user : decodeWord 0b1110_100_0_0_1_0_0_0111_0010000000000000 = .ok (.stmUser .al false false false 7 0x2000) := by decide

/-- R98, R110. -/
theorem test_decode_stm_s_pc : decodeWord 0b1110_100_1_1_1_1_0_0010_1000000000000010 = .ok (.stmSPc .al true true true 2 0x8002) := by decide

/-- R95. -/
theorem test_decode_b : decodeWord 0b0001_101_0_111111111111111111111101 = .ok (.b .ne 0xFFFFFD) := by decide

/-- R95. -/
theorem test_decode_bl : decodeWord 0b1110_101_1_000000000000000000000010 = .ok (.bl .al 2) := by decide

/-- R306. -/
theorem test_decode_cp_ls : decodeWord 0b1110_110_1_1001_0001_0010_1111_00000001 = .ok (.cpLsClass .al) := by decide

/-- R307. -/
theorem test_decode_cp_op : decodeWord 0b1110_1110_0001_0010_0011_1111_000_1_0100 = .ok (.cpOpClass .al) := by decide

/-- R308. -/
theorem test_decode_swi : decodeWord 0b0110_1111_000000000000000010101010 = .ok (.swi .vs) := by decide

/-- R96. -/
theorem test_decode_blx_imm : decodeWord 0b1111_101_1_100000000000000000000001 = .ok (.blxImm true 0x800001) := by decide


/-- A row that no word selects: the six sets of R116 (`95_test_vectors.md` 2.12). -/
theorem test_words_outside_the_table :
    (∀ w ∈ [0xF57FF000, 0xFF000000, 0xE3000000, 0xE3400000, 0xE1200070, 0xE12FFF20, 0xE1000010, 0xE1400010, 0xE1000030,
      0xE1600030, 0xE1000040, 0xE1000060, 0xE1000090, 0xE1900F9F, 0xFFFFFFFF],
      (decodeTableWord 32 w).isNone = true) ∧
    decodeTableWord 32 0 = some (.andShImm .eq false 0 0 0 .lsl 0) := by decide

/-! ## Steps: start states and end states of `95_test_vectors.md`, sections 2.5 to 2.14 -/

/-- The state after reset with a CPSR, its mode, and the registers given. -/
def start (cpsr : Word) (regs : List (RegIdx × Word)) : State :=
  regs.foldl (fun s r => s.write r.1 r.2) { State.reset with cpsr := cpsr, mode := (modeOf (modeField cpsr)).getD .svc }

/-- A state with words of memory. -/
def put (s : State) (words : List (Nat × Word)) : State :=
  words.foldl (fun s w => { s with mem := s.mem.setBytes w.1 w.2 4 }) s

/-- The state after the instruction with word `w`, placed at 0x100 where `pc` is. -/
def after (s : State) (w : Nat) : Option State :=
  match step ((s.setPc 0x100).withFetchWord 32 w) with
  | .next t => some t
  | .fault _ | .refused _ => none

/-- The registers a test watches after a word: R0, `pc` and the flags with the control byte. -/
def watch (s : State) (w : Nat) : Option (Word × Word × Word) := (after s w).map fun t => (t.read 0, t.pc, t.cpsr)

theorem test_ands : watch (start 0x000000D3 [(1, 0xFFFFFFFF), (2, 0x10000001)]) 0xE0110202 = some (0x10, 0x104, 0x200000D3) := by
  decide
theorem test_eors : watch (start 0xB00000D3 [(0, 0xDEADBEEF)]) 0xE0300000 = some (0, 0x104, 0x700000D3) := by decide
theorem test_subs_overflow : watch (start 0xD3 [(1, 0x80000000), (2, 1)]) 0xE0510002 = some (0x7FFFFFFF, 0x104, 0x300000D3) := by
  decide
theorem test_rsbs : watch (start 0xD3 [(1, 5)]) 0xE2710000 = some (0xFFFFFFFB, 0x104, 0x800000D3) := by decide
theorem test_adds_wraps : watch (start 0xD3 [(1, 0xFFFFFFFF), (2, 1)]) 0xE0910002 = some (0, 0x104, 0x600000D3) := by decide
theorem test_add_keeps_flags : watch (start 0x900000D3 [(1, 0xFFFFFFFF), (2, 1)]) 0xE0810002 = some (0, 0x104, 0x900000D3) := by
  decide
theorem test_adcs_rrx : watch (start 0x200000D3 [(1, 3)]) 0xE0B10061 = some (0x80000005, 0x104, 0x800000D3) := by decide
theorem test_sbcs : watch (start 0xD3 [(1, 5), (2, 3)]) 0xE0D10002 = some (1, 0x104, 0x200000D3) := by decide
theorem test_rscs : watch (start 0x200000D3 [(1, 3), (2, 5)]) 0xE0F10002 = some (2, 0x104, 0x200000D3) := by decide
theorem test_tst : watch (start 0x100000D3 [(0, 0x99), (1, 0x80000000)]) 0xE3110102 = some (0x99, 0x104, 0xB00000D3) := by decide
theorem test_teq_with_rd_15 : watch (start 0x200000D3 [(0, 0x99), (1, 0x55), (2, 0x55)]) 0xE131F002 =
    some (0x99, 0x104, 0x600000D3) := by decide
theorem test_cmp : watch (start 0xD3 [(0, 0x99), (1, 0x80000000), (2, 0x7FFFFFFF)]) 0xE1510002 =
    some (0x99, 0x104, 0x300000D3) := by decide
theorem test_cmn : watch (start 0xD3 [(0, 0x99), (1, 1), (2, 0xFFFFFFFF)]) 0xE1710002 = some (0x99, 0x104, 0x600000D3) := by decide
theorem test_orrs : watch (start 0xD3 [(1, 0xF0F)]) 0xE39104FF = some (0xFF000F0F, 0x104, 0xA00000D3) := by decide
theorem test_movs_lsl_32 : watch (start 0xD3 [(1, 0x80000001), (2, 0x20)]) 0xE1B00211 = some (0, 0x104, 0x600000D3) := by decide
theorem test_movs_lsl_256 : watch (start 0x200000D3 [(1, 0x80000001), (2, 0x100)]) 0xE1B00211 =
    some (0x80000001, 0x104, 0xA00000D3) := by decide
theorem test_bics : watch (start 0x200000D3 [(1, 0xAB)]) 0xE3D100FF = some (0, 0x104, 0x600000D3) := by decide
theorem test_mvn_asr_40 : watch (start 0xD3 [(0, 0x99), (1, 0x80000000), (2, 0x28)]) 0xE1E00251 = some (0, 0x104, 0xD3) := by decide
theorem test_r15_operands : watch (start 0xD3 [(1, 1)]) 0xE0810F1F = some (0x1041, 0x104, 0xD3) := by decide
theorem test_mov_pc_unaligned : watch (start 0xD3 [(14, 0x203)]) 0xE1A0F00E = some (0, 0x203, 0xD3) := by decide
theorem test_failed_condition : watch (start 0xD3 []) 0x03A00001 = some (0, 0x104, 0xD3) := by decide

/-- `MOVS PC, R14` from IRQ to User: User's R13, CPSR, the mode, and what IRQ's bank keeps. -/
theorem test_mode_return :
    (after { start 0xD2 [(13, 0x500), (14, 0x300)] with spsr := 0x60000010, bankUsr := #v[0, 0, 0, 0, 0, 0x7000, 0x7004] }
      0xE1B0F00E).map (fun t => (t.pc, t.cpsr, t.mode, t.read 13, t.read 14)) =
      some (0x300, 0x60000010, .usr, 0x7000, 0x7004) := by decide
theorem test_mode_return_in_user_mode :
    (after { start 0xD0 [(14, 0x300)] with spsr := 0x13 } 0xE1B0F00E).map (fun t => (t.pc, t.halted, t.err)) =
      some (0x104, true, some (.spsrAccess .usr)) := by decide

theorem test_b_backwards : watch (start 0xD3 []) 0xEAFFFFDE = some (0, 0x80, 0xD3) := by decide
theorem test_bl : (after (start 0xD3 [(14, 0xDEAD)]) 0xEB000002).map (fun t => (t.pc, t.read 14)) = some (0x110, 0x108) := by decide
theorem test_blx_imm : (after (start 0xD3 []) 0xFB000001).map (fun t => (t.pc, t.read 14, t.cpsr)) =
    some (0x10E, 0x108, 0xF3) := by decide
/-- R247: the link value of the call at 0x100 is 0x108; `MOV PC, LR` and `BX LR` come back there, `SUB PC, LR, #4` to 0x104. -/
theorem test_returns : ([0xE1A0F00E, 0xE12FFF1E, 0xE24EF004].map fun w => watch (start 0xD3 [(14, 0x108)]) w) =
    [some (0, 0x108, 0xD3), some (0, 0x108, 0xD3), some (0, 0x104, 0xD3)] := by decide
theorem test_bx_thumb : watch (start 0xD3 [(14, 0x201)]) 0xE12FFF1E = some (0, 0x200, 0xF3) := by decide
theorem test_blx_r14_reads_first : (after (start 0xD3 [(14, 0x300)]) 0xE12FFF3E).map (fun t => (t.pc, t.read 14)) =
    some (0x300, 0x108) := by decide

theorem test_ldm_base_in_list :
    (after (put (start 0xD3 [(0, 0x1000)]) [(0x1000, 0xA0), (0x1004, 0xA4)]) 0xE8B00003).map (fun t => (t.read 0, t.read 1)) =
      some (0xA0, 0xA4) := by decide
theorem test_ldm_pc_sets_t : watch (put (start 0xD3 [(0, 0x1000)]) [(0x1000, 0x301)]) 0xE8908000 =
    some (0x1000, 0x300, 0xF3) := by decide
theorem test_ldm_user_keeps_irq :
    (after (put (start 0xD2 [(0, 0x1000), (13, 0x111), (14, 0x222)]) [(0x1000, 0xAAAA), (0x1004, 0xBBBB)]) 0xE8D06000).map
      (fun t => (t.mode, t.read 13, t.bankUsr[5], t.bankUsr[6])) = some (.irq, 0x111, 0xAAAA, 0xBBBB) := by decide
theorem test_ldm_user_error_leaves_user :
    (after (start 0xD2 [(0, 0xFFFE)]) 0xE8D02000).map (fun t => (t.mode, t.cpsr, t.err)) =
      some (.usr, 0xD2, some (.addressError 0xFFFE)) := by decide
theorem test_ldm_ret :
    (after (put { start 0xD3 [(13, 0x2000)] with spsr := 0x60000010 } [(0x2000, 7), (0x2004, 0x401)]) 0xE8FD8001).map
      (fun t => (t.pc, t.cpsr, t.mode, t.read 0, t.bankSvc[0])) = some (0x400, 0x60000010, .usr, 7, 0x2008) := by decide
theorem test_stm_order :
    (after (start 0xD3 [(8, 0x1000), (0, 0xA0), (3, 0xA3), (5, 0xA5)]) 0xE8880029).map
      (fun t => (t.mem.wordAt 0x1000, t.mem.wordAt 0x1004, t.mem.wordAt 0x1008)) = some (0xA0, 0xA3, 0xA5) := by decide
theorem test_stm_stores_written_back_base :
    (after (start 0xD3 [(0, 0x11), (1, 0x1000)]) 0xE8A10003).map
      (fun t => (t.read 1, t.mem.wordAt 0x1000, t.mem.wordAt 0x1004)) = some (0x1008, 0x11, 0x1008) := by decide
theorem test_stm_user :
    (after { start 0xD1 [(0, 0x1000), (8, 0xF8), (14, 0xFE)] with bankUsr := #v[8, 9, 10, 11, 12, 13, 14] } 0xE8C07F00).map
      (fun t => (t.mode, t.read 8, t.mem.wordAt 0x1000, t.mem.wordAt 0x1018)) = some (.fiq, 0xF8, 8, 14) := by decide
theorem test_stmSPc_stores_pcx : (after (start 0xD2 [(0, 0x1000)]) 0xE8C08000).map (fun t => (t.mode, t.mem.wordAt 0x1000)) =
    some (.irq, 0x104) := by decide

theorem test_mrs_spsr : watch { start 0xD3 [] with spsr := 0x12345678 } 0xE14F0000 = some (0x12345678, 0x104, 0xD3) := by decide
theorem test_msr_switches_mode :
    (after { start 0xD3 [(13, 0x51), (14, 0x52)] with spsr := 0x99, bankIrq := #v[0x31, 0x32], spsrIrq := 0x77 } 0xE321F0D2).map
      (fun t => (t.mode, t.read 13, t.spsr, t.bankSvc[1], t.spsrSvc)) = some (.irq, 0x31, 0x77, 0x52, 0x99) := by decide
theorem test_msr_in_user_mode : watch (start 0xD0 [(0, 0xF00000D3)]) 0xE129F000 = some (0xF00000D3, 0x104, 0xF00000D0) := by decide
theorem test_clz : watch (start 0xF00000D3 [(0, 0x99), (1, 0x10000)]) 0xE16F0F11 = some (0xF, 0x104, 0xF00000D3) := by decide
theorem test_swi : (after (start 0xD3 []) 0xEF123456).map (fun t => (t.pc, t.ir, t.mode, t.err)) =
    some (0x104, 0xEF123456, .svc, some (.unimplemented .softwareInterrupt)) := by decide

/-- The bank round trip the source requires (`95_test_vectors.md` 1.2). -/
theorem test_bank_round_trip :
    let s1 := ((start 0xD0 [(13, 0xAAAA)]).switchMode .irq).write 13 0xBBBB
    let s2 := s1.switchMode .usr
    (s2.read 13, (s2.switchMode .irq).read 13) = (0xAAAA, 0xBBBB) := by decide

/-- A session opened on the reset state, after the calls. -/
def session (calls : List DriverCall) : Option State :=
  match calls.foldl (fun d call => d.bind fun d => match driverCall call d with | .next d => some d | _ => none)
      (some (Session.live Config.default State.reset)) with
  | some (.live _ s) => some s
  | _ => none

/-- The start state of the `MOVS PC, R14` row of `95_test_vectors.md` 2.6 (mode IRQ, SPSR, R13, R14, `bank_usr[5]`, `bank_usr[6]`), set
up by the driver's own writes from reset, then the step. -/
theorem test_driver_sets_up_mode_return :
    (session [.writeCpsr 0xD2, .writeSpsr 0x60000010, .writeReg 14 0x300, .writeReg 13 0x500, .writeBank (.usr 5) 0x7000,
      .writeBank (.usr 6) 0x7004, .writeReg 15 0x100, .writeMem 0x100 .word 0xE1B0F00E, .step]).map
      (fun t => (t.mode, [t.pc, t.read 13, t.read 14, t.bankSlot (.irq 0), t.bankSlot (.irq 1), t.spsrSlot .irq])) =
      some (.usr, [0x300, 0x7000, 0x7004, 0x500, 0x300, 0x60000010]) := by decide

/-- Vector S4, rows 1 and 8 to 10: an SPSR written in User mode stays through System, and Supervisor shows its own again; an SPSR
slot written from outside its mode shows when that mode is entered (R137). -/
theorem test_driver_writes_spsr :
    ([[], [.writeCpsr 0xDF], [.writeCpsr 0xDF, .writeCpsr 0xD3], [.writeSpsrSlot .irq 0x222, .writeCpsr 0xD2]].map fun more =>
      (session ([.writeSpsr 0x111, .writeCpsr 0xD0, .writeSpsr 0x999] ++ more)).map State.spsr) =
      [some 0x999, some 0x999, some 0x111, some 0x222] := by decide

/-! ## Witnesses: states and operands that meet the hypotheses of the statements -/

/-- A running core in ARM state whose next word can be fetched. -/
theorem fetchable_of {s : State} (h : s.halted = false) (ht : flagT s.cpsr = false) (hp : s.pc.toNat + 4 ≤ s.mem.size) :
    s.Fetchable := ⟨⟨h, ht⟩, hp⟩

/-- The invariant, from facts that evaluate. -/
theorem inv_of {s : State} (hw : s.mem.wf = true) (hm : modeOf (modeField s.cpsr) = some s.mode) (he : s.err.isSome = s.halted) :
    s.Inv := ⟨hw, fun _ => hm, he⟩

theorem witness_DecodeEncode :
    (Instr.ldmRet .al true true true 15 0xFFFF).wf = true ∧ (Instr.stmUser .eq false false false 0 0).wf = true := by decide

theorem witness_DecodedIsWellFormed : decodeWord 0xE8D08000 = .ok (.ldmRet .al false true false 0 0x8000) := by decide

theorem witness_DecodeMatchesOpcodeTable :
    (opcodeTable[77]?).map (fun r => r.selects 0xFA000000) = some true ∧ (decodeWord 0xFA000000).toOption.map Instr.rowIndex = some 77 ∧
    opcodeTable[78]? = none := by decide

/-- One word of each of the six sets. -/
theorem witness_DecodeFailureWords :
    (∃ r, decodeWord 0xF57FF000 = .error r) ∧ (∃ r, decodeWord 0xE3000000 = .error r) ∧ (∃ r, decodeWord 0xE1200070 = .error r) ∧
    (∃ r, decodeWord 0xE1400010 = .error r) ∧ (∃ r, decodeWord 0xE1600030 = .error r) ∧ (∃ r, decodeWord 0xE1000090 = .error r) :=
  ⟨⟨_, rfl⟩, ⟨_, rfl⟩, ⟨_, rfl⟩, ⟨_, rfl⟩, ⟨_, rfl⟩, ⟨_, rfl⟩⟩

theorem witness_IgnoredRegisterFields (rot : BitVec 4) (imm8 : BitVec 8) (amt : BitVec 5) (ty : ShiftType) (rs rm : RegIdx) :
    ∃ o o' o'' : Operand2, o = .imm rot imm8 ∧ o' = .shImm amt ty rm ∧ o'' = .shReg rs ty rm := ⟨_, _, _, rfl, rfl, rfl⟩

theorem witness_StepRunsDecoded :
    (put State.reset [(0, 0xE3A00001)]).Fetchable ∧
    decodeWord ((put State.reset [(0, 0xE3A00001)]).mem.wordAt (put State.reset [(0, 0xE3A00001)]).pc) =
      .ok (.movImm .al false 0 0 1) := ⟨fetchable_of (by decide) (by decide) (by decide), by decide⟩

theorem witness_PlacedInstructionRuns :
    (State.reset.setPc 0xFFFC).Fetchable ∧ (State.reset.setPc 0xFFFC).mem.wf = true ∧ (Instr.swi .al).wf = true :=
  ⟨fetchable_of (by decide) (by decide) (by decide), by decide, by decide⟩

/-- The zero word, ANDEQ, after reset. -/
theorem witness_FailedConditionIsNoOp :
    (start 0x800000D3 []).Fetchable ∧
    condPassed (((start 0x800000D3 []).mem.wordAt (start 0x800000D3 []).pc).extractLsb' 28 4) (start 0x800000D3 []).cpsr = false :=
  ⟨fetchable_of (by decide) (by decide) (by decide), by decide⟩

theorem witness_UndecodedWordHalts :
    (put State.reset [(0, 0xE1200070)]).Fetchable ∧
    condPassed (((put State.reset [(0, 0xE1200070)]).mem.wordAt (put State.reset [(0, 0xE1200070)]).pc).extractLsb' 28 4)
      (put State.reset [(0, 0xE1200070)]).cpsr = true ∧
    ∃ r, decodeWord ((put State.reset [(0, 0xE1200070)]).mem.wordAt (put State.reset [(0, 0xE1200070)]).pc) = .error r :=
  ⟨fetchable_of (by decide) (by decide) (by decide), by decide, ⟨_, rfl⟩⟩

/-- The first `pc` out of range, and the last below the address space's end. -/
theorem witness_FetchOutOfRangeHalts :
    (State.reset.setPc 0xFFFD).RunArm ∧ (State.reset.setPc 0xFFFD).mem.size < (State.reset.setPc 0xFFFD).pc.toNat + 4 ∧
    (State.reset.setPc 0xFFFFFFFC).RunArm ∧ (State.reset.setPc 0xFFFFFFFC).mem.size < (State.reset.setPc 0xFFFFFFFC).pc.toNat + 4 :=
  ⟨⟨by decide, by decide⟩, by decide, ⟨by decide, by decide⟩, by decide⟩

/-- The last halfword in range and the first out of it. -/
theorem witness_ThumbStepHalts :
    (start 0xF3 []).halted = false ∧ flagT (start 0xF3 []).cpsr = true ∧
    ((start 0xF3 []).setPc 0xFFFE).pc.toNat + 2 ≤ (start 0xF3 []).mem.size ∧
    ¬ ((start 0xF3 []).setPc 0xFFFF).pc.toNat + 2 ≤ (start 0xF3 []).mem.size := by decide

theorem witness_HaltedIsAbsorbing :
    (State.reset.haltedBy (.addressError 0)).halted = true ∧
    driverCall (.writeReg 0 1) (.live Config.default (State.reset.haltedBy (.addressError 0))) =
      .next (.live Config.default ((State.reset.haltedBy (.addressError 0)).write 0 1)) ∧
    DriverCall.writeReg 0 1 ≠ .reset := ⟨by decide, rfl, by decide⟩

theorem witness_ConditionsAfterCompare :
    ∃ t, exec (cmpI .al 1 (.imm 0 5)) (start 0xD3 [(1, 0x80000000)]) = .next t ∧ condPassed Cond.lt.code t.cpsr = true ∧
      condPassed Cond.hi.code t.cpsr = true := ⟨_, rfl, by decide, by decide⟩

/-- Amounts 0, 1 and 31, each in its clause. -/
theorem witness_ImmediateShifts :
    (0 : BitVec 5).toNat = 0 ∧ 1 ≤ (1 : BitVec 5).toNat ∧ 1 ≤ (31 : BitVec 5).toNat ∧
    shifterOperand (.shImm 1 .ror 1) (start 0xD3 [(1, 0x80000001)]) = ⟨0xC0000000, .set⟩ ∧
    shifterOperand (.shImm 31 .asr 1) (start 0xD3 [(1, 0x80000001)]) = ⟨0xFFFFFFFF, .unset⟩ := by decide

/-- Amounts 0 (from 0x100), 1, 32, 33 and 255, each in its clause. -/
theorem witness_RegisterShifts :
    ((start 0xD3 [(2, 0x100)]).read 2).toNat % 256 = 0 ∧ ((start 0xD3 [(2, 1)]).read 2).toNat % 256 = 1 ∧
    shifterOperand (.shReg 2 .lsr 1) (start 0xD3 [(1, 0x80000001), (2, 32)]) = ⟨0, .set⟩ ∧
    shifterOperand (.shReg 2 .lsr 1) (start 0xD3 [(1, 0x80000001), (2, 33)]) = ⟨0, .unset⟩ ∧
    shifterOperand (.shReg 2 .ror 1) (start 0xD3 [(1, 0x80000001), (2, 32)]) = ⟨0x80000001, .set⟩ ∧
    shifterOperand (.shReg 2 .asr 1) (start 0xD3 [(1, 0x80000001), (2, 255)]) = ⟨0xFFFFFFFF, .set⟩ := by decide

/-- The signed range's ends: overflow on one side of each, none on the other. -/
theorem witness_AdderCarryAndOverflow :
    (addWithCarry 0x7FFFFFFF 0 true).vf = .set ∧ (addWithCarry 0x7FFFFFFF 0 false).vf = .unset ∧
    (addWithCarry 0x80000000 0xFFFFFFFF false).vf = .set ∧ (addWithCarry 0x80000000 0 false).vf = .unset ∧
    (addWithCarry 0xFFFFFFFF 0 true).cf = .set := by decide

/-- Both disjuncts, a writer of R15 with S = 0 among them. -/
theorem witness_DataProcessingFrame :
    (addI .al true 1 14 (.imm 0 1) ∈ dpWriters .al true 1 14 (.imm 0 1) ∧ ((14 : RegIdx) ≠ 15)) ∧
    (addI .al false 1 15 (.imm 0 1) ∈ dpWriters .al false 1 15 (.imm 0 1)) ∧
    cmpI .al 1 (.imm 0 1) ∈ dpCompares .al 1 (.imm 0 1) ∧
    (∃ t, exec (addI .al true 1 14 (.imm 0 1)) State.reset = .next t) ∧ (∃ t, exec (cmpI .al 1 (.imm 0 1)) State.reset = .next t) :=
  ⟨⟨by decide, by decide⟩, by decide, by decide, ⟨_, rfl⟩, ⟨_, rfl⟩⟩

/-- The three clauses: User, an SPSR that names no mode, an SPSR that names User. -/
theorem witness_ModeReturn :
    (dpWriters .al true 0 15 (.imm 0 0))[11]? = some (mvnI .al true 15 (.imm 0 0)) ∧
    (dpWriters .al false 0 15 (.imm 0 0))[11]? = some (mvnI .al false 15 (.imm 0 0)) ∧
    condPassed Cond.al.code (start 0xD0 []).cpsr = true ∧ (start 0xD0 []).mode = .usr ∧ (start 0xDF []).mode = .sys ∧
    (start 0xD3 []).mode = .svc ∧ modeOf ((start 0xD3 []).spsr.extractLsb' 0 5) = none ∧
    modeOf (({ start 0xD3 [] with spsr := 0x10 } : State).spsr.extractLsb' 0 5) = some .usr := by decide

theorem witness_InverseOperations :
    (0 : RegIdx) ≠ 15 ∧ ∃ t u, exec (addI .al false 0 0 (.imm 0 1)) (start 0xD3 [(0, 0x7FFFFFFF)]) = .next t ∧
      exec (subI .al false 0 0 (.imm 0 1)) t = .next u ∧ t.read 0 = 0x80000000 := ⟨by decide, _, _, rfl, rfl, by decide⟩

/-- A word in the last word of memory, about to be fetched, with a value in R14. -/
def atEnd (w link : Word) : State := put (start 0xD3 [(14, link), (15, 0xFFFC)]) [(0xFFFC, w)]

/-- A call in the last word of memory, and a callee there that has its link value, for each of the three returns. -/
theorem witness_CallFromAddress :
    (atEnd 0xEB000002 0).Fetchable ∧ (atEnd 0xEB000002 0).mem.wordAt (atEnd 0xEB000002 0).pc = encode (.bl .al 2) ∧
    (∀ i : Instr, i = .movShImm .al false 15 0 .lsl 14 ∨ i = .subImm .al false 14 15 0 4 ∨ i = .bx .al 14 →
      (atEnd (encode i) 0x10004).Fetchable ∧ (atEnd (encode i) 0x10004).read 14 = (atEnd 0xEB000002 0).pc + 8 ∧
      (atEnd (encode i) 0x10004).mem.wordAt (atEnd (encode i) 0x10004).pc = encode i) := by
  refine ⟨fetchable_of (by decide) (by decide) (by decide), by decide, ?_⟩
  rintro i (rfl | rfl | rfl) <;> exact ⟨fetchable_of (by decide) (by decide) (by decide), by decide, by decide⟩

/-- Registers 1 and 3 follow one another in the list 0x800A; 1 is its lowest, 15 its highest. -/
theorem witness_BlockAddresses :
    listed 0x800A 1 = true ∧ (∀ j : RegIdx, j.toNat < (1 : RegIdx).toNat → listed 0x800A j = false) ∧
    listed 0x800A 3 = true ∧ (∀ k : RegIdx, (1 : RegIdx).toNat < k.toNat → k.toNat < (3 : RegIdx).toNat → listed 0x800A k = false) ∧
    blockAddr true false 0 0x800A 1 = 0xFFFFFFF4 ∧ blockAddr true false 0 0x800A 15 = 0xFFFFFFFC := by decide

/-- The last word of memory is in range; the list with R15 and the empty list are. -/
theorem witness_LdmResult :
    condPassed Cond.al.code (start 0xD3 [(0, 0xFFF8)]).cpsr = true ∧
    blockInRange (start 0xD3 [(0, 0xFFF8)]).mem false true ((start 0xD3 [(0, 0xFFF8)]).read 0) 0x8001 ∧
    blockInRange (start 0xD3 [(0, 0xFFF8)]).mem false true ((start 0xD3 [(0, 0xFFF8)]).read 0) 0 := by
  unfold blockInRange; decide

theorem witness_LdmUserResult :
    condPassed Cond.al.code (start 0xD2 [(13, 0xFFF8)]).cpsr = true ∧ listed 0x6000 15 = false ∧
    blockInRange (start 0xD2 [(13, 0xFFF8)]).mem false true ((start 0xD2 [(13, 0xFFF8)]).read 13) 0x6000 := by
  unfold blockInRange; decide

/-- The three clauses. -/
theorem witness_LdmRetResult :
    condPassed Cond.al.code (start 0xD3 []).cpsr = true ∧ listed 0x8001 15 = true ∧ (start 0xD0 []).mode = .usr ∧
    (start 0xDF []).mode = .sys ∧ (start 0xD3 []).mode = .svc ∧ modeOf ((start 0xD3 []).spsr.extractLsb' 0 5) = none ∧
    blockInRange (start 0xD3 [(13, 0x2000)]).mem false true ((start 0xD3 [(13, 0x2000)]).read 13) 0x8001 ∧
    modeOf (({ start 0xD3 [(13, 0x2000)] with spsr := 0x60000010 } : State).spsr.extractLsb' 0 5) = some .usr := by
  unfold blockInRange; decide

/-- A block whose highest word ends memory, with the base in the list and written back. -/
theorem witness_StmResult :
    condPassed Cond.al.code (start 0xD3 [(1, 0xFFF8)]).cpsr = true ∧ (start 0xD3 [(1, 0xFFF8)]).mem.wf = true ∧
    blockInRange (start 0xD3 [(1, 0xFFF8)]).mem false true ((start 0xD3 [(1, 0xFFF8)]).read 1) 0x8002 ∧
    blockAddr false true ((start 0xD3 [(1, 0xFFF8)]).read 1) 0x8002 15 = 0xFFFC ∧
    outsideBlock false true ((start 0xD3 [(1, 0xFFF8)]).read 1) 0x8002 16 0xFFF7 := by
  unfold blockInRange outsideBlock; decide

theorem witness_StmUserResult :
    condPassed Cond.al.code (start 0xD1 [(0, 0x1000)]).cpsr = true ∧ listed 0x7F00 15 = false ∧
    (start 0xD1 [(0, 0x1000)]).mem.wf = true ∧
    blockInRange (start 0xD1 [(0, 0x1000)]).mem false true ((start 0xD1 [(0, 0x1000)]).read 0) 0x7F00 := by
  unfold blockInRange; decide

/-- R3's transfer is the first out of range; a store's first transfer, near 2^32, is. -/
theorem witness_LoadBlockFails :
    condPassed Cond.al.code (start 0xD3 [(0, 0xFFF8)]).cpsr = true ∧
    blockFailsAt (start 0xD3 [(0, 0xFFF8)]).mem false true ((start 0xD3 [(0, 0xFFF8)]).read 0) 0x000E 3 ∧
    (start 0xD3 []).mode.hasSpsr = true ∧
    (modeOf (({ start 0xD3 [] with spsr := 0x10 } : State).spsr.extractLsb' 0 5)).isSome = true := by
  unfold blockFailsAt; decide

theorem witness_StoreBlockFails :
    condPassed Cond.al.code (start 0xD3 []).cpsr = true ∧ (start 0xD3 []).mem.wf = true ∧
    blockFailsAt (start 0xD3 []).mem true false ((start 0xD3 []).read 13) 0x0001 0 ∧
    outsideBlock true false ((start 0xD3 []).read 13) 0x0001 0 0 := by
  unfold blockFailsAt outsideBlock; decide

theorem witness_MsrSpsrResult :
    condPassed Cond.al.code (start 0xD0 []).cpsr = true ∧ (start 0xD0 []).mode = .usr ∧
    ((start 0xD3 []).mode ≠ .usr ∧ (start 0xD3 []).mode ≠ .sys) ∧ rotatedImm 10 0xA = 0x0000A000 ∧
    (start 0xD3 [(0, 5)]).read 0 = 5 := by decide

/-- A new value that names no mode, from an immediate, and one that names IRQ, from a register. -/
theorem witness_MsrCpsrResult :
    condPassed Cond.al.code (start 0xD3 []).cpsr = true ∧ rotatedImm 0 0x14 = 0x14 ∧
    (∀ k, k < 32 → (0x00000014 : Word).getLsbD k =
      if (1 : BitVec 4).getLsbD (k / 8) = true ∧ (8 ≤ k ∨ (start 0xD3 []).mode ≠ .usr) then (0x14 : Word).getLsbD k
      else (start 0xD3 []).cpsr.getLsbD k) ∧ modeOf ((0x00000014 : Word).extractLsb' 0 5) = none ∧
    (start 0xD3 [(0, 0xD2)]).read 0 = 0xD2 ∧
    (∀ k, k < 32 → (0x000000D2 : Word).getLsbD k =
      if (1 : BitVec 4).getLsbD (k / 8) = true ∧ (8 ≤ k ∨ (start 0xD3 [(0, 0xD2)]).mode ≠ .usr) then (0xD2 : Word).getLsbD k
      else (start 0xD3 [(0, 0xD2)]).cpsr.getLsbD k) ∧ modeOf ((0x000000D2 : Word).extractLsb' 0 5) = some .irq := by decide

theorem witness_StubClassesHalt :
    (Instr.swi .al, StubClass.softwareInterrupt) ∈ stubsWithLabels .al ∧ (stubsWithLabels .al).length = 15 := by decide

theorem witness_SwitchModeSpsr :
    Mode.sys.hasSpsr = false ∧ (start 0xD3 []).mode ≠ .irq ∧ Mode.irq.hasSpsr = true := by decide

/-- A word that ends memory. -/
theorem witness_WriteThenRead :
    State.reset.mem.wf = true ∧ ∃ m, memWrite State.reset.mem 0xFFFC .word 0x11223344 = .ok m ∧ m.byte 0xFFFF = 0x11 :=
  ⟨by decide, _, rfl, by decide⟩

/-- The last word in range and the first out of it; the top of the address space does not wrap. -/
theorem witness_AccessBounds :
    (0xFFFC : Word).toNat + Width.word.bytes ≤ State.reset.mem.size ∧
    State.reset.mem.size < (0xFFFD : Word).toNat + Width.word.bytes ∧
    State.reset.mem.size < (0xFFFFFFFF : Word).toNat + Width.half.bytes := by decide

/-- The smallest and the largest device, and both ways to reset. -/
theorem witness_ResetValues :
    ({ memSize := 1, resetPc := 0xFFFFFFFF, resetCpsr := 0xF00000DF } : Config).valid = true ∧
    ({ memSize := 2 ^ 32, resetPc := 0, resetCpsr := 0x10 } : Config).valid = true ∧
    State.reset = State.constructed Config.default := by decide

theorem witness_DriverKeepsInv :
    Config.default.valid = true ∧ ({ memSize := 0, resetPc := 0, resetCpsr := 0xD3 } : Config).valid = false ∧
    (start 0xD0 []).Inv ∧ ∃ t, driverCall (.writeCpsr 0xD3) (.live Config.default (start 0xD0 [])) = .next (.live Config.default t) :=
  ⟨by decide, by decide, inv_of (by decide) (by decide) (by decide), _, rfl⟩

theorem witness_StepKeepsInv : (put (start 0x2D1 [(13, 4)]) [(0, 0xE8FD8001)]).Inv := inv_of (by decide) (by decide) (by decide)

/-- User mode, with MSR CPSR_fc in memory at `pc`. -/
theorem witness_UserModeCannotBeLeft :
    (put (start 0xD0 [(0, 0xF00000D3)]) [(0, 0xE129F000)]).Inv ∧ (put (start 0xD0 [(0, 0xF00000D3)]) [(0, 0xE129F000)]).mode = .usr ∧
    ∃ t, step (put (start 0xD0 [(0, 0xF00000D3)]) [(0, 0xE129F000)]) = .next t ∧ t.cpsr = 0xF00000D0 :=
  ⟨inv_of (by decide) (by decide) (by decide), by decide, _, rfl, by decide⟩

/-- User mode, with a load of the User bank at `pc`; IRQ's R13 is a private cell. -/
theorem witness_UserModeIsolation :
    (put (start 0xD0 []) [(0, 0xE8D06000)]).Inv ∧ (put (start 0xD0 []) [(0, 0xE8D06000)]).mode = .usr ∧
    (∃ t, step (put (start 0xD0 []) [(0, 0xE8D06000)]) = .next t ∧ t.read 13 = 0xE8D06000) ∧
    sameCell .usr .irq 13 = false ∧ sameCell .usr .fiq 8 = false :=
  ⟨inv_of (by decide) (by decide) (by decide), by decide, ⟨_, rfl, by decide⟩, by decide, by decide⟩

theorem witness_OnlyReturnsAndMsrChangeMode :
    (start 0xD3 []).ModeAgrees ∧ ∃ t, exec (.msrImm .al .cpsr 1 0 0xD2) (start 0xD3 []) = .next t ∧ t.halted = false ∧
      t.mode ≠ (start 0xD3 []).mode := ⟨by unfold State.ModeAgrees; decide, _, rfl, by decide, by decide⟩

theorem witness_OnlyStoresWriteMemory :
    (∃ t, exec (.ldm .al false true true 0 6) State.reset = .next t) ∧ isStore (.ldm .al false true true 0 6) = false := ⟨⟨_, rfl⟩, by decide⟩

/-- A precise error, and the kind that is not: a load that had written R1 and the base. -/
theorem witness_ErrorsArePrecise :
    (∃ t, exec (.mrs .al .spsr 0) (start 0xD0 []) = .next t ∧ t.halted = true) ∧
    (∃ t, exec (.ldm .al false true true 0 6) (start 0xD3 [(0, 0xFFFC)]) = .next t ∧ t.halted = true ∧ t.read 0 = 0x10004 ∧
      t.err = some (.addressError 0x10000)) ∧ (start 0xD0 []).halted = false :=
  ⟨⟨_, rfl, by decide⟩, ⟨_, rfl, by decide, by decide, by decide⟩, by decide⟩

end Sys2Proof.Tests
end

section
/-! PROOFS. The family `10_state.md`: what a step can leave behind, the invariant of the core under every step and every driver
call, the isolation of User mode, the register bank under any sequence of mode switches, and the reset state. -/

namespace Sys2Proof.Machine

/-! ## What a step can do -/

/-- What `step` can leave of `s`: nothing new when halted (R167), a fatal error at the fetch (R324), a fatal error after the
fetch (R163, R322), a fetched word whose condition failed (R165), or the effect of one instruction on the fetched state. -/
inductive StepEffect (s : State) : State → Prop
  | halted (h : s.halted = true) : StepEffect s s
  | fetchError (h : s.halted = false) (f : Fault) : StepEffect s (s.haltedBy f)
  | stopped (h : s.halted = false) (w : Word) (width : Width) (f : Fault) : StepEffect s ((s.afterFetch w width).haltedBy f)
  | skipped (h : s.halted = false) (w : Word) : StepEffect s (s.afterFetch w .word)
  | ran (h : s.halted = false) (w : Word) (i : Instr) (t : State) (e : Effect i (s.afterFetch w .word) t) : StepEffect s t

theorem stepThumb_effect {s : State} (h : s.halted = false) : ∃ t, stepThumb s = .next t ∧ StepEffect s t := by
  unfold stepThumb
  cases memRead s.mem s.pc .half with
  | error f => exact ⟨_, rfl, .fetchError h f⟩
  | ok w => exact ⟨_, rfl, .stopped h w .half _⟩

theorem decodeAndExecute_effect {s : State} (h : s.halted = false) (w : Word) :
    ∃ t, decodeAndExecute w (s.afterFetch w .word) = .next t ∧ StepEffect s t := by
  unfold decodeAndExecute
  by_cases hc : condPassed (condF w) (s.afterFetch w .word).cpsr = true
  · rw [if_pos hc]
    cases decodeWord w with
    | error _ => exact ⟨_, rfl, .stopped h w .word _⟩
    | ok i =>
      obtain ⟨t, ht, e⟩ := exec_effect i (s.afterFetch w .word)
      exact ⟨t, ht, .ran h w i t e⟩
  · rw [if_neg hc]
    exact ⟨_, rfl, .skipped h w⟩

theorem stepArm_effect {s : State} (h : s.halted = false) : ∃ t, stepArm s = .next t ∧ StepEffect s t := by
  unfold stepArm
  cases memRead s.mem s.pc .word with
  | error f => exact ⟨_, rfl, .fetchError h f⟩
  | ok w => exact decodeAndExecute_effect h w

/-- Every step answers a next state, of one of the shapes of `StepEffect`. -/
theorem step_effect (s : State) : ∃ t, step s = .next t ∧ StepEffect s t := by
  unfold step stepCore
  cases h : s.halted with
  | true => exact ⟨s, rfl, .halted h⟩
  | false =>
    cases flagT s.cpsr with
    | true => exact stepThumb_effect h
    | false => exact stepArm_effect h

theorem StepEffect.of_step {s t : State} (h : step s = .next t) : StepEffect s t := by
  obtain ⟨t', h', e⟩ := step_effect s
  rw [h] at h'
  cases h'
  exact e

/-! ## The invariant, operation by operation -/

/-- A change of state that keeps the mode field of CPSR and touches neither `mode` nor the halt. -/
theorem State.Inv.of_modeField {s t : State} (h : s.Inv) (hw : t.mem.wf = true) (hc : modeField t.cpsr = modeField s.cpsr)
    (hm : t.mode = s.mode) (hh : t.halted = s.halted) (he : t.err = s.err) : t.Inv where
  memWf := hw
  modeAgrees ht := by
    have hs : s.ModeAgrees := h.modeAgrees (hh ▸ ht)
    unfold State.ModeAgrees at hs ⊢
    rw [hc, hm, hs]
  errHalted := by rw [he, hh, h.errHalted]

/-- A fatal error leaves the invariant whatever the modes are: `mode` and CPSR.M need not agree in a halted core (R269). -/
theorem State.inv_haltedBy {s : State} (hw : s.mem.wf = true) (f : Fault) : (s.haltedBy f).Inv where
  memWf := hw
  modeAgrees h := by cases h
  errHalted := rfl

/-- A switch to the mode that CPSR.M names restores the agreement (R36, R140). -/
theorem State.inv_switchMode {s : State} {m : Mode} (hw : s.mem.wf = true) (hm : modeOf (modeField s.cpsr) = some m)
    (he : s.err.isSome = s.halted) : (s.switchMode m).Inv where
  memWf := by rw [State.switchMode_mem, hw]
  modeAgrees _ := by
    unfold State.ModeAgrees
    rw [State.switchMode_cpsr, State.switchMode_mode, hm]
  errHalted := by rw [State.switchMode_err, State.switchMode_halted, he]

theorem State.Inv.afterFetch {s : State} (h : s.Inv) (w : Word) (width : Width) : (s.afterFetch w width).Inv :=
  h.of_modeField h.memWf rfl rfl rfl rfl

theorem modeField_of_byte {a b : Word} (h : a &&& 0xFF = b &&& 0xFF) : modeField a = modeField b :=
  modeField_of_control (control_of_byte h)

/-- An instruction that runs keeps the invariant. -/
theorem Effect.keeps_inv {i : Instr} {s t : State} (e : Effect i s t) (h : s.Inv) (hh : s.halted = false) : t.Inv := by
  have agrees : modeOf (modeField s.cpsr) = some s.mode := h.modeAgrees hh
  cases e with
  | plain r c hc => exact h.of_modeField h.memWf (modeField_of_control hc) rfl rfl rfl
  | halt f => exact State.inv_haltedBy h.memWf f
  | spsr v _ => exact h.of_modeField h.memWf rfl rfl rfl rfl
  | ret r c m _ hm _ => exact State.inv_switchMode h.memWf hm h.errHalted
  | msr c m hm _ => exact State.inv_switchMode h.memWf hm h.errHalted
  | loadErr r c a _ _ => exact State.inv_haltedBy (s := { s with regs := r, cpsr := c }) h.memWf _
  | store r mem _ hw _ => exact h.of_modeField (hw h.memWf) rfl rfl rfl rfl
  | storeErr r mem a _ hw _ => exact State.inv_haltedBy (hw h.memWf) _
  | user r r' c mem hc _ hw _ =>
    exact State.inv_switchMode (hw h.memWf) (by rw [modeField_of_control hc]; exact agrees)
      (by simpa using h.errHalted)
  | userErr r r' c mem a _ _ hw _ _ => exact State.inv_haltedBy (hw h.memWf) _

theorem StepEffect.keeps_inv {s t : State} (e : StepEffect s t) (h : s.Inv) : t.Inv := by
  cases e with
  | halted _ => exact h
  | fetchError _ f => exact State.inv_haltedBy h.memWf f
  | stopped _ w width f => exact State.inv_haltedBy (h.afterFetch w width).memWf f
  | skipped _ w => exact h.afterFetch w .word
  | ran hh w i _ e => exact e.keeps_inv (h.afterFetch w .word) hh

/-- Settles O55, by the shapes of a step. -/
theorem stepKeepsInv : Obligations.StepKeepsInv := by
  intro s h
  obtain ⟨t, ht, e⟩ := step_effect s
  exact ⟨t, ht, e.keeps_inv h⟩

/-! ## User mode -/

/-- A state that differs in its active registers, CPSR, `IR`, the halt, the error and memory only: bank storage, the SPSRs and
`mode` are those of `s`. -/
def State.ActiveChange (s t : State) : Prop :=
  t = { s with regs := t.regs, cpsr := t.cpsr, ir := t.ir, halted := t.halted, err := t.err, mem := t.mem }

/-- A change of the active state alone is invisible in every cell that the current mode does not name (R37). -/
theorem State.ActiveChange.regIn_eq {s t : State} (h : s.ActiveChange t) {m : Mode} {i : RegIdx}
    (hc : sameCell s.mode m i = false) : t.regIn m i = s.regIn m i := by
  rw [State.ActiveChange] at h
  rw [h, State.regIn_of_active, sameCell_comm, hc]
  rfl

theorem State.ActiveChange.spsrIn_eq {s t : State} (h : s.ActiveChange t) (m : Mode) : t.spsrIn m = s.spsrIn m := by
  rw [State.ActiveChange] at h
  rw [h]
  unfold State.spsrIn
  cases m <;> rfl

/-- A switch to the current mode changes nothing (R134). -/
theorem State.switchMode_of_mode_eq {s : State} {m : Mode} (h : s.mode = m) : s.switchMode m = s := if_pos h.symm

/-- The modes that a CPSR value names when it keeps the control byte of a User-mode CPSR: User alone (R285). -/
theorem eq_usr_of_byte {s : State} {c : Word} {m : Mode} (ha : s.ModeAgrees) (hu : s.mode = .usr)
    (hb : c &&& 0xFF = s.cpsr &&& 0xFF) (hm : modeOf (modeField c) = some m) : m = .usr := by
  have hs : modeOf (modeField s.cpsr) = some s.mode := ha
  rw [modeField_of_byte hb, hs, hu] at hm
  cases hm
  rfl

/-- An instruction in User mode changes the active state alone: the SPSR and the mode return are refused (R327), MSR keeps the
control byte (R285), and the User bank is the active one (R266). -/
theorem Effect.activeChange_of_usr {i : Instr} {s t : State} (e : Effect i s t) (ha : s.ModeAgrees) (hu : s.mode = .usr) :
    s.ActiveChange t := by
  have noSpsr : s.mode.hasSpsr ≠ true := by rw [hu]; decide
  have toUser : ∀ r, ({ s with regs := r } : State).switchMode .usr = { s with regs := r } :=
    fun _ => State.switchMode_of_mode_eq hu
  cases e with
  | plain r c _ => rfl
  | halt f => rfl
  | spsr v h => exact absurd h noSpsr
  | ret r c m h _ _ => exact absurd h noSpsr
  | msr c m hm hk =>
    have hb : c &&& 0xFF = s.cpsr &&& 0xFF := hk.resolve_right fun ⟨notUsr, _⟩ => notUsr hu
    have hs : ({ s with cpsr := c } : State).switchMode m = { s with cpsr := c } :=
      State.switchMode_of_mode_eq (hu.trans (eq_usr_of_byte ha hu hb hm).symm)
    rw [hs]
    rfl
  | loadErr r c a _ _ => rfl
  | store r mem _ _ _ => rfl
  | storeErr r mem a _ _ _ => rfl
  | user r r' c mem _ _ _ _ =>
    rw [toUser r]
    show s.ActiveChange (({ s with regs := r', cpsr := c, mem := mem } : State).switchMode s.mode)
    rw [State.switchMode_of_mode_eq rfl]
    rfl
  | userErr r r' c mem a _ _ _ _ _ =>
    rw [toUser r]
    rfl

theorem State.ActiveChange.of_afterFetch {s t : State} {w : Word} {width : Width} (h : (s.afterFetch w width).ActiveChange t) :
    s.ActiveChange t := h

/-- A step from User mode changes the active state alone. -/
theorem StepEffect.activeChange_of_usr {s t : State} (e : StepEffect s t) (h : s.Inv) (hu : s.mode = .usr) :
    s.ActiveChange t := by
  cases e with
  | halted _ => rfl
  | fetchError _ f => rfl
  | stopped _ w width f => rfl
  | skipped _ w => rfl
  | ran hh w i _ e =>
    exact (e.activeChange_of_usr ((h.afterFetch w .word).modeAgrees hh) hu).of_afterFetch

/-- Settles O57: a step from User mode changes the active state alone, and what another mode keeps for itself
is not in it. -/
theorem userModeIsolation : Obligations.UserModeIsolation := by
  intro s t h hu ht
  have hc : s.ActiveChange t := (StepEffect.of_step ht).activeChange_of_usr h hu
  exact ⟨fun m i hm => hc.regIn_eq (by rw [hu, hm]), fun m _ => hc.spsrIn_eq m⟩

/-! ## Any sequence of mode switches -/

/-- What no single switch changes, no sequence of switches changes. -/
theorem foldl_switchMode_keeps {α : Type} {f : State → α} (h : ∀ s m, f (State.switchMode s m) = f s) (ms : List Mode)
    (s : State) : f (ms.foldl State.switchMode s) = f s := by
  induction ms generalizing s with
  | nil => rfl
  | cons m ms ih => rw [List.foldl_cons, ih, h]

theorem foldl_switchMode_mode (ms : List Mode) (s : State) : (ms.foldl State.switchMode s).mode = ms.getLastD s.mode := by
  induction ms generalizing s with
  | nil => rfl
  | cons m ms ih => rw [List.foldl_cons, ih, State.switchMode_mode, List.getLastD_cons]

/-- Settles O48, by induction on the sequence from the laws of one switch. -/
theorem switchesKeepEveryView : Obligations.SwitchesKeepEveryView := by
  intro ms s
  refine ⟨fun m i => ?_, fun m hm => ?_, foldl_switchMode_mode ms s, ?_, ?_, ?_, ?_, ?_⟩
  · exact foldl_switchMode_keeps (f := fun s => s.regIn m i) (fun s m' => s.regIn_switchMode m' m i) ms s
  · exact foldl_switchMode_keeps (f := fun s => s.spsrIn m) (fun s m' => s.spsrIn_switchMode m' m hm) ms s
  · exact foldl_switchMode_keeps State.switchMode_cpsr ms s
  · exact foldl_switchMode_keeps State.switchMode_mem ms s
  · exact foldl_switchMode_keeps State.switchMode_ir ms s
  · exact foldl_switchMode_keeps State.switchMode_halted ms s
  · exact foldl_switchMode_keeps State.switchMode_err ms s

/-! ## The reset state -/

theorem Config.valid_iff (c : Config) :
    c.valid = true ↔ 1 ≤ c.memSize ∧ c.memSize ≤ 2 ^ 32 ∧ (∃ m, modeOf (modeField c.resetCpsr) = some m) ∧
      c.resetCpsr.getLsbD 5 = false := by
  simp [Config.valid, Option.isSome_iff_exists, and_assoc]

/-- The mode of an admissible `RESET_CPSR` is the one its mode field names (R42). -/
theorem State.resetCore_modeAgrees {c : Config} (hc : c.valid = true) (mem : Memory) : (State.resetCore c mem).ModeAgrees := by
  obtain ⟨-, -, ⟨m, hm⟩, -⟩ := (Config.valid_iff c).1 hc
  show modeOf (modeField c.resetCpsr) = some ((modeOf (modeField c.resetCpsr)).getD .svc)
  rw [hm]
  rfl

theorem State.resetCore_read (c : Config) (mem : Memory) {i : RegIdx} (hi : i ≠ 15) : (State.resetCore c mem).read i = 0 := by
  have hn : ¬ 15 = i.toNat := fun h => hi (BitVec.eq_of_toNat_eq h.symm)
  simp [State.read, State.resetCore, hn]

theorem State.resetCore_pc (c : Config) (mem : Memory) : (State.resetCore c mem).pc = c.resetPc := by
  simp [State.pc, State.read, State.resetCore, pcIdx]

theorem State.resetCore_storedHigh (c : Config) (mem : Memory) (m : Mode) :
    (State.resetCore c mem).storedHigh m = Vector.replicate 7 0 := by
  cases m <;> rfl

theorem State.resetCore_storedSpsr (c : Config) (mem : Memory) (m : Mode) : (State.resetCore c mem).storedSpsr m = 0 := by
  cases m <;> rfl

/-- Every register of every mode but R15 is zero after reset (R42). -/
theorem State.resetCore_regIn (c : Config) (mem : Memory) (m : Mode) {i : RegIdx} (hi : i ≠ 15) :
    (State.resetCore c mem).regIn m i = 0 := by
  unfold State.regIn
  split
  · exact State.resetCore_read c mem hi
  · rw [State.resetCore_storedHigh, Vector.getElem?_replicate]
    split <;> rfl

theorem State.resetCore_inv {c : Config} (hc : c.valid = true) {mem : Memory} (hw : mem.wf = true) :
    (State.resetCore c mem).Inv where
  memWf := hw
  modeAgrees _ := State.resetCore_modeAgrees hc mem
  errHalted := rfl

theorem State.constructed_inv {c : Config} (hc : c.valid = true) : (State.constructed c).Inv :=
  State.resetCore_inv hc (memory_empty_wf c.memSize)

/-- Construction and `reset()` both leave the reset values over some memory (R350, R351). -/
theorem exists_resetCore {c : Config} {old s : State} (h : s = State.constructed c ∨ s = old.driverReset c) :
    ∃ mem, s = State.resetCore c mem := by
  rcases h with rfl | rfl
  · exact ⟨_, rfl⟩
  · exact ⟨_, rfl⟩

/-- Settles O52: the reset values, element by element. -/
theorem resetValues : Obligations.ResetValues := by
  intro c old s hc hs
  obtain ⟨mem, rfl⟩ := exists_resetCore hs
  obtain ⟨-, -, -, hT⟩ := (Config.valid_iff c).1 hc
  have bank7 : ∀ k (h : k < 7), (Vector.replicate 7 (0 : Word))[k] = 0 := fun k h => Vector.getElem_replicate h
  have bank2 : ∀ k (h : k < 2), (Vector.replicate 2 (0 : Word))[k] = 0 := fun k h => Vector.getElem_replicate h
  exact ⟨fun i hi => State.resetCore_read c mem hi, State.resetCore_pc c mem, rfl, rfl, State.resetCore_modeAgrees hc mem, hT,
    fun m i hi => State.resetCore_regIn c mem m hi, fun k h => ⟨bank7 k h, bank7 k h⟩,
    fun k h => ⟨bank2 k h, bank2 k h, bank2 k h, bank2 k h⟩, State.resetCore_storedSpsr c mem, rfl, rfl, rfl,
    ⟨rfl, fun _ => rfl⟩, rfl⟩

/-- Settles O53: the default parameters are admissible, and their `RESET_PC` lies inside the device in ARM state. -/
theorem resetMeetsInv : Obligations.ResetMeetsInv :=
  ⟨State.constructed_inv (by decide), ⟨⟨rfl, by decide⟩, by decide⟩⟩

/-! ## The driver's calls -/

theorem State.Inv.driverWriteCpsr {s : State} (h : s.Inv) (v : Word) : (s.driverWriteCpsr v).Inv := by
  cases hm : modeOf (modeField v) with
  | none => rw [State.driverWriteCpsr_of_none hm]; exact State.inv_haltedBy h.memWf _
  | some m => rw [State.driverWriteCpsr_of_some hm]; exact State.inv_switchMode h.memWf hm h.errHalted

theorem State.Inv.writeBankSlot {s : State} (h : s.Inv) (slot : BankSlot) (v : Word) : (s.writeBankSlot slot v).Inv :=
  h.of_modeField (by simpa using h.memWf) (by simp) (by simp) (by simp) (by simp)

theorem State.Inv.writeSpsrSlot {s : State} (h : s.Inv) (slot : SpsrSlot) (v : Word) : (s.writeSpsrSlot slot v).Inv :=
  h.of_modeField (by simpa using h.memWf) (by simp) (by simp) (by simp) (by simp)

/-- One call on a live core keeps the invariant and the parameters. -/
theorem driverCall_keeps_inv {call : DriverCall} {c c' : Config} {s t : State} (hc : c.valid = true) (h : s.Inv)
    (hd : driverCall call (.live c s) = .next (.live c' t)) : t.Inv ∧ c' = c := by
  obtain ⟨rfl, hcase⟩ := driverCall_cases hd
  refine ⟨?_, rfl⟩
  rcases hcase with ⟨-, hs⟩ | ⟨-, rfl⟩ | ⟨a, n, v, m, -, hm, rfl⟩ | ⟨i, v, -, rfl⟩ | ⟨v, -, rfl⟩ | ⟨v, -, rfl⟩ |
    ⟨slot, v, -, rfl⟩ | ⟨slot, v, -, rfl⟩ | ⟨v, -, rfl⟩
  · exact (StepEffect.of_step hs).keeps_inv h
  · exact State.resetCore_inv hc h.memWf
  · exact h.of_modeField ((memWrite_keeps hm).2 h.memWf) rfl rfl rfl rfl
  · exact h.of_modeField h.memWf rfl rfl rfl rfl
  · exact h.driverWriteCpsr v
  · exact h.of_modeField h.memWf rfl rfl rfl rfl
  · exact h.writeSpsrSlot slot v
  · exact h.writeBankSlot slot v
  · exact h.of_modeField h.memWf rfl rfl rfl rfl

theorem construct_of_valid {c : Config} (hc : c.valid = true) : construct c = .next (.live c (State.constructed c)) := if_pos hc

theorem construct_of_invalid {c : Config} (hc : c.valid = false) : construct c = .refused .badConfig :=
  if_neg (by rw [hc]; decide)

/-- Settles O54, by the cases of a driver call. -/
theorem driverKeepsInv : Obligations.DriverKeepsInv :=
  ⟨fun _ hc => ⟨construct_of_valid hc, State.constructed_inv hc⟩, fun _ hc => construct_of_invalid hc,
    fun _ _ _ _ _ hc h hd => driverCall_keeps_inv hc h hd⟩

end Sys2Proof.Machine
end

section
/-! PROOFS. The family `20_memory.md`: the bounds of an access, a write read back, and the instructions that leave memory
alone. -/

namespace Sys2Proof.Machine

/-! ## Accesses -/

theorem memRead_inRange {m : Memory} {a : Word} {n : Width} (h : a.toNat + n.bytes ≤ m.size) :
    memRead m a n = .ok (BitVec.ofNat 32 (m.bytesAt a.toNat n.bytes)) := by
  rw [memRead_eq, if_pos h]

theorem memWrite_inRange {m : Memory} {a : Word} {n : Width} (v : Word) (h : a.toNat + n.bytes ≤ m.size) :
    memWrite m a n v = .ok (m.setBytes a.toNat v n.bytes) := by
  rw [memWrite_eq, if_pos h]

theorem memRead_outOfRange {m : Memory} {a : Word} {n : Width} (h : m.size < a.toNat + n.bytes) :
    memRead m a n = .error (.addressError a) := by
  rw [memRead_eq, if_neg (Nat.not_le.2 h)]

theorem memWrite_outOfRange {m : Memory} {a : Word} {n : Width} (v : Word) (h : m.size < a.toNat + n.bytes) :
    memWrite m a n v = .error (.addressError a) := by
  rw [memWrite_eq, if_neg (Nat.not_le.2 h)]

/-- Settles O51, by the two sides of the range check. -/
theorem accessBounds : Obligations.AccessBounds := by
  intro m a n v
  exact ⟨fun h => ⟨⟨_, memRead_inRange h⟩, _, memWrite_inRange v h⟩,
    fun h => ⟨memRead_outOfRange h, memWrite_outOfRange v h⟩⟩

/-! ## A write read back -/

/-- A write that succeeds was in range, and left the bytes of the value. -/
theorem memWrite_ok {m m' : Memory} {a : Word} {n : Width} {v : Word} (h : memWrite m a n v = .ok m') :
    a.toNat + n.bytes ≤ m.size ∧ m' = m.setBytes a.toNat v n.bytes := by
  by_cases hr : a.toNat + n.bytes ≤ m.size
  · rw [memWrite_inRange v hr] at h
    cases h
    exact ⟨hr, rfl⟩
  · rw [memWrite_outOfRange v (Nat.not_le.1 hr)] at h
    cases h

theorem Memory.byte_setBytes_inside {m : Memory} (h : m.wf = true) {a : Nat} (v : Word) {n k : Nat} (ha : a + n ≤ m.size)
    (hk : k < n) : (m.setBytes a v n).byte (a + k) = v.extractLsb' (8 * k) 8 := by
  rw [Memory.byte_setBytes h v ha, if_pos (by omega), Nat.add_sub_cancel_left]
  apply BitVec.eq_of_toNat_eq
  simp

theorem Memory.byte_setBytes_outside {m : Memory} (h : m.wf = true) {a : Nat} (v : Word) {n x : Nat} (ha : a + n ≤ m.size)
    (hx : x < a ∨ a + n ≤ x) : (m.setBytes a v n).byte x = m.byte x := by
  rw [Memory.byte_setBytes h v ha, if_neg (by omega)]

/-- The number that `n` bytes make is known from the bytes: base 256 digits of `v`, from digit `d` on (R64). -/
theorem Memory.bytesAt_of_bytes {m : Memory} {v : Word} {a d n : Nat}
    (h : ∀ k, k < n → m.byte (a + k) = v.extractLsb' (8 * (d + k)) 8) :
    m.bytesAt a n = v.toNat / 2 ^ (8 * d) % 2 ^ (8 * n) := by
  induction n generalizing a d with
  | zero => simp [Memory.bytesAt, Nat.mod_one]
  | succ n ih =>
    have low : (m.byte a).toNat = v.toNat / 2 ^ (8 * d) % 256 := by
      rw [show m.byte a = v.extractLsb' (8 * d) 8 from h 0 (by omega), BitVec.extractLsb'_toNat, Nat.shiftRight_eq_div_pow]
    have high : m.bytesAt (a + 1) n = v.toNat / 2 ^ (8 * d) / 256 % 2 ^ (8 * n) := by
      rw [ih (d := d + 1) fun k hk => by rw [Nat.add_assoc, h (1 + k) (by omega), Nat.add_assoc], Nat.div_div_eq_div_mul,
        Nat.mul_succ, Nat.pow_add]
    rw [Memory.bytesAt, low, high, Nat.mul_succ, Nat.add_comm (8 * n), Nat.pow_add, Nat.mod_mul]

theorem Memory.bytesAt_setBytes {m : Memory} (h : m.wf = true) {a : Nat} (v : Word) {n : Nat} (ha : a + n ≤ m.size) :
    (m.setBytes a v n).bytesAt a n = v.toNat % 2 ^ (8 * n) := by
  rw [Memory.bytesAt_of_bytes (v := v) (d := 0) fun k hk => by rw [Memory.byte_setBytes_inside h v ha hk, Nat.zero_add]]
  simp

/-- Settles O50, from the bytes that a store in range leaves. -/
theorem writeThenRead : Obligations.WriteThenRead := by
  intro m m' a n v hw h
  obtain ⟨hsize, hwf⟩ := memWrite_keeps h
  obtain ⟨hr, rfl⟩ := memWrite_ok h
  refine ⟨?_, fun k hk => Memory.byte_setBytes_inside hw v hr hk, fun x hx => Memory.byte_setBytes_outside hw v hr hx,
    hwf hw, hsize⟩
  rw [memRead_inRange (by rw [hsize]; exact hr), Memory.bytesAt_setBytes hw v hr]

/-! ## The instructions that leave memory alone -/

theorem Effect.mem_size {i : Instr} {s t : State} (e : Effect i s t) : t.mem.size = s.mem.size := by
  cases e with
  | plain _ _ _ | halt _ | spsr _ _ | loadErr _ _ _ _ _ => rfl
  | ret _ _ _ _ _ _ | msr _ _ _ _ => rw [State.switchMode_mem]
  | store _ _ hz _ _ | storeErr _ _ _ hz _ _ => exact hz
  | user _ _ _ _ _ hz _ _ => rw [State.switchMode_mem]; exact hz
  | userErr _ _ _ _ _ _ hz _ _ _ => exact hz

/-- No effect changes memory unless its instruction is a store (R69). -/
theorem Effect.mem_of_not_store {i : Instr} {s t : State} (e : Effect i s t) (hi : isStore i = false) : t.mem = s.mem := by
  cases e with
  | plain _ _ _ | halt _ | spsr _ _ | loadErr _ _ _ _ _ => rfl
  | ret _ _ _ _ _ _ | msr _ _ _ _ => rw [State.switchMode_mem]
  | store _ _ _ _ hs | storeErr _ _ _ _ _ hs => rw [hi] at hs; cases hs
  | user _ _ _ _ _ _ _ hm => rw [State.switchMode_mem]; exact hm.resolve_left (by simp [hi])
  | userErr _ _ _ _ _ _ _ _ hm _ => exact hm.resolve_left (by simp [hi])

theorem Effect.of_exec {i : Instr} {s t : State} (h : exec i s = .next t) : Effect i s t := by
  obtain ⟨t', h', e⟩ := exec_effect i s
  rw [h] at h'
  cases h'
  exact e

/-- Settles O59, by the shapes of an instruction's effect. -/
theorem onlyStoresWriteMemory : Obligations.OnlyStoresWriteMemory := by
  intro i s t h
  have e := Effect.of_exec h
  refine ⟨fun hi => ?_, e.mem_size⟩
  have hm : t.mem = s.mem := e.mem_of_not_store hi
  exact ⟨fun a => by rw [hm], hm⟩

end Sys2Proof.Machine
end

section
/-! PROOFS. The family `20_memory.md`, continued: an instruction is read back from the bytes that memory holds it in. The work is
the round trip of words, format by format; the bytes only carry it. -/

namespace Sys2Proof.Machine

/-! ## Data processing -/

/-- The data-processing instruction of an opcode, in any of the three formats (R92, R113); the comparisons have no S and no Rd,
and MOV and MVN no Rn. -/
def dpInstr (c : Cond) (op : BitVec 4) (s : Bool) (rn rd : RegIdx) (o : Operand2) : Instr :=
  match op.toNat with
  | 0 => andI c s rn rd o
  | 1 => eorI c s rn rd o
  | 2 => subI c s rn rd o
  | 3 => rsbI c s rn rd o
  | 4 => addI c s rn rd o
  | 5 => adcI c s rn rd o
  | 6 => sbcI c s rn rd o
  | 7 => rscI c s rn rd o
  | 8 => tstI c rn o
  | 9 => teqI c rn o
  | 10 => cmpI c rn o
  | 11 => cmnI c rn o
  | 12 => orrI c s rn rd o
  | 13 => movI c s rd o
  | 14 => bicI c s rn rd o
  | _ => mvnI c s rd o

theorem decodeDpImm_eq (c : Cond) (w : Word) :
    decodeDpImm c w = dpInstr c (opcodeF w) (sF w) (rnF w) (rdF w) (.imm (rotF w) (imm8F w)) := by
  unfold decodeDpImm dpInstr
  have hop := (opcodeF w).isLt
  generalize (opcodeF w).toNat = op at hop ⊢
  interval_cases op <;> rfl

theorem decodeDpShImm_eq (c : Cond) (w : Word) :
    decodeDpShImm c w = dpInstr c (opcodeF w) (sF w) (rnF w) (rdF w) (.shImm (amtF w) (shiftF w) (rmF w)) := by
  unfold decodeDpShImm dpInstr
  have hop := (opcodeF w).isLt
  generalize (opcodeF w).toNat = op at hop ⊢
  interval_cases op <;> rfl

theorem decodeDpShReg_eq (c : Cond) (w : Word) :
    decodeDpShReg c w = dpInstr c (opcodeF w) (sF w) (rnF w) (rdF w) (.shReg (rsF w) (shiftF w) (rmF w)) := by
  unfold decodeDpShReg dpInstr
  have hop := (opcodeF w).isLt
  generalize (opcodeF w).toNat = op at hop ⊢
  interval_cases op <;> rfl

section
variable (c : Cond) (op : BitVec 4) (s : Bool) (rn rd : RegIdx)

theorem decodeWord_dpImm (rot : BitVec 4) (imm8 : BitVec 8) (h : (op.getLsbD 3 && !op.getLsbD 2 && !s) = false) :
    decodeWord (encDpImm c op s rn rd rot imm8) = .ok (dpInstr c op s rn rd (.imm rot imm8)) := by
  rw [decodeWord_encDpImm (h := h), decodeDpImm_eq, opcodeF_encDpImm, sF_encDpImm, rnF_encDpImm, rdF_encDpImm,
    rotF_encDpImm, imm8F_encDpImm]

theorem decodeWord_dpShImm (amt : BitVec 5) (ty : ShiftType) (rm : RegIdx)
    (h : (op.getLsbD 3 && !op.getLsbD 2 && !s) = false) :
    decodeWord (encDpShImm c op s rn rd amt ty rm) = .ok (dpInstr c op s rn rd (.shImm amt ty rm)) := by
  rw [decodeWord_encDpShImm (h := h), decodeDpShImm_eq, opcodeF_encDpShImm, sF_encDpShImm, rnF_encDpShImm, rdF_encDpShImm,
    amtF_encDpShImm, shiftF_encDpShImm, rmF_encDpShImm]

theorem decodeWord_dpShReg (rs : RegIdx) (ty : ShiftType) (rm : RegIdx)
    (h : (op.getLsbD 3 && !op.getLsbD 2 && !s) = false) :
    decodeWord (encDpShReg c op s rn rd rs ty rm) = .ok (dpInstr c op s rn rd (.shReg rs ty rm)) := by
  rw [decodeWord_encDpShReg (h := h), decodeDpShReg_eq, opcodeF_encDpShReg, sF_encDpShReg, rnF_encDpShReg, rdF_encDpShReg,
    rsF_encDpShReg, shiftF_encDpShReg, rmF_encDpShReg]

end

/-! ## Block transfers -/

theorem decodeWord_load (c : Cond) (p u s w : Bool) (rn : RegIdx) (list : BitVec 16) :
    decodeWord (encLsm c p u s w true rn list) = .ok (if s = false then .ldm c p u w rn list
      else if listsPc list then .ldmRet c p u w rn list else .ldmUser c p u w rn list) := by
  rw [decodeWord_encLsm, decodeLsm, bit24_encLsm, bit23_encLsm, bit22_encLsm, bit21_encLsm, bit20_encLsm, bit15_encLsm,
    rnF_encLsm, listF_encLsm]
  simp [listsPc]

theorem decodeWord_store (c : Cond) (p u s w : Bool) (rn : RegIdx) (list : BitVec 16) :
    decodeWord (encLsm c p u s w false rn list) = .ok (if s = false then .stm c p u w rn list
      else if listsPc list then .stmSPc c p u w rn list else .stmUser c p u w rn list) := by
  rw [decodeWord_encLsm, decodeLsm, bit24_encLsm, bit23_encLsm, bit22_encLsm, bit21_encLsm, bit20_encLsm, bit15_encLsm,
    rnF_encLsm, listF_encLsm]
  simp [listsPc]

/-! ## The miscellaneous space, and the MSR with an immediate that R106 splits off beside it -/

/-- A word of the miscellaneous space, by its condition, its group and the bits that R105 tests. -/
theorem decodeWord_misc {w : Word} {c : Cond} (hc : condF w = c.code) (hg : groupF w = 0) (h7 : w.getLsbD 7 = false)
    (h24 : w.getLsbD 24 = true) (h23 : w.getLsbD 23 = false) (h20 : w.getLsbD 20 = false) :
    decodeWord w = decodeMisc c w := by
  rw [decodeWord_normal hc, decodeNormal_group0 hg, decodeGroup0_misc (by rw [h7]; rfl)]
  rw [isMiscSpace, h24, h23, h20]
  rfl

theorem decodeWord_mrs (c : Cond) (psr : Psr) (rd : RegIdx) : decodeWord (encode (.mrs c psr rd)) = .ok (.mrs c psr rd) := by
  rw [decodeWord_misc (condF_mrs ..) (groupF_mrs ..) (bit7_mrs ..) (bit24_mrs ..) (bit23_mrs ..) (bit20_mrs ..), decodeMisc,
    selF_mrs, bit21_mrs, psrF_mrs, rdF_mrs]
  rfl

theorem decodeWord_msrReg (c : Cond) (psr : Psr) (mask : BitVec 4) (rm : RegIdx) :
    decodeWord (encode (.msrReg c psr mask rm)) = .ok (.msrReg c psr mask rm) := by
  rw [decodeWord_misc (condF_msrReg ..) (groupF_msrReg ..) (bit7_msrReg ..) (bit24_msrReg ..) (bit23_msrReg ..)
    (bit20_msrReg ..), decodeMisc, selF_msrReg, bit21_msrReg, psrF_msrReg, maskF_msrReg, rmF_msrReg]
  rfl

theorem decodeWord_msrImm (c : Cond) (psr : Psr) (mask rot : BitVec 4) (imm8 : BitVec 8) :
    decodeWord (encode (.msrImm c psr mask rot imm8)) = .ok (.msrImm c psr mask rot imm8) := by
  rw [decodeWord_normal (condF_msrImm ..), decodeNormal_group1 (groupF_msrImm ..), decodeGroup1, isMiscSpace, bit24_msrImm,
    bit23_msrImm, bit20_msrImm, bit21_msrImm, psrF_msrImm, maskF_msrImm, rotF_msrImm, imm8F_msrImm]
  rfl

theorem decodeWord_bx (c : Cond) (rm : RegIdx) : decodeWord (encode (.bx c rm)) = .ok (.bx c rm) := by
  rw [decodeWord_misc (condF_bx ..) (groupF_bx ..) (bit7_bx ..) (bit24_bx ..) (bit23_bx ..) (bit20_bx ..), decodeMisc,
    selF_bx, miscOpF_bx, rmF_bx]
  rfl

theorem decodeWord_blxReg (c : Cond) (rm : RegIdx) : decodeWord (encode (.blxReg c rm)) = .ok (.blxReg c rm) := by
  rw [decodeWord_misc (condF_blxReg ..) (groupF_blxReg ..) (bit7_blxReg ..) (bit24_blxReg ..) (bit23_blxReg ..)
    (bit20_blxReg ..), decodeMisc, selF_blxReg, miscOpF_blxReg, rmF_blxReg]
  rfl

theorem decodeWord_clz (c : Cond) (rd rm : RegIdx) : decodeWord (encode (.clz c rd rm)) = .ok (.clz c rd rm) := by
  rw [decodeWord_misc (condF_clz ..) (groupF_clz ..) (bit7_clz ..) (bit24_clz ..) (bit23_clz ..) (bit20_clz ..), decodeMisc,
    selF_clz, miscOpF_clz, rdF_clz, rmF_clz]
  rfl

/-! ## Branches -/

theorem decodeNormal_group5 {w : Word} {c : Cond} (h : groupF w = 5) :
    decodeNormal c w = .ok (if w.getLsbD 24 then .bl c (imm24F w) else .b c (imm24F w)) := by
  unfold decodeNormal; rw [h]; rfl

theorem decodeWord_b (c : Cond) (imm24 : BitVec 24) : decodeWord (encode (.b c imm24)) = .ok (.b c imm24) := by
  rw [decodeWord_normal (condF_b ..), decodeNormal_group5 (groupF_b ..), bit24_b, imm24F_b]
  rfl

theorem decodeWord_bl (c : Cond) (imm24 : BitVec 24) : decodeWord (encode (.bl c imm24)) = .ok (.bl c imm24) := by
  rw [decodeWord_normal (condF_bl ..), decodeNormal_group5 (groupF_bl ..), bit24_bl, imm24F_bl]
  rfl

theorem decodeWord_blxImm (h : Bool) (imm24 : BitVec 24) : decodeWord (encode (.blxImm h imm24)) = .ok (.blxImm h imm24) := by
  rw [decodeWord_unconditional (condF_blxImm ..), decodeUnconditional, groupF_blxImm, bit24_blxImm, imm24F_blxImm]
  rfl

/-! ## Class rows -/

/-- Below the condition the tree reads bits 27:0 and no other (R91, R104 to R112). -/
theorem decodeNormal_congr {w w' : Word} (c : Cond) (h : ∀ i, i < 28 → w.getLsbD i = w'.getLsbD i) :
    decodeNormal c w = decodeNormal c w' := by
  have field (p n : Nat) (hp : p + n ≤ 28) : w.extractLsb' p n = w'.extractLsb' p n := by
    apply BitVec.eq_of_getLsbD_eq
    intro i hi
    rw [BitVec.getLsbD_extractLsb', BitVec.getLsbD_extractLsb', h (p + i) (by omega)]
  have hshift : shiftF w = shiftF w' := by rw [shiftF, shiftF, field 5 2 (by decide)]
  have hpsr : psrF w = psrF w' := by rw [psrF, psrF, h 22 (by decide)]
  simp (disch := decide) only [decodeNormal, decodeGroup0, decodeGroup1, decodeMulXls, decodeMisc, isMiscSpace,
    decodeDpImm_eq, decodeDpShImm_eq, decodeDpShReg_eq, decodeLsm, groupF, opcodeF, sF, rnF, rdF, rsF, rmF, rotF, imm8F, amtF,
    selF, miscOpF, listF, maskF, imm24F, hshift, hpsr, h, field]
  rfl

/-- A class row decodes as its fixed bits under any condition. -/
theorem decodeWord_encClass (c : Cond) (rest : BitVec 28) :
    decodeWord (encClass c rest) = decodeNormal c (rest.setWidth 32) := by
  rw [decodeWord_normal (condF_encClass c rest)]
  refine decodeNormal_congr c fun i hi => ?_
  rw [encClass, BitVec.getLsbD_or, getLsbD_atBit, getLsbD_atBit, BitVec.getLsbD_setWidth]
  simp [hi]

/-! ## Every instruction -/

/-- Every well-formed instruction is decoded from its word. The three data-processing formats, the block transfers and the class
rows go by their format's lemma; a list that does not fit its row (R110) is what `wf` shuts out. -/
theorem decodeWord_encode {i : Instr} (h : i.wf = true) : decodeWord (encode i) = .ok i := by
  cases i
  case andImm | eorImm | subImm | rsbImm | addImm | adcImm | sbcImm | rscImm | tstImm | teqImm | cmpImm | cmnImm | orrImm |
      movImm | bicImm | mvnImm =>
    exact decodeWord_dpImm _ _ _ _ _ _ _ (by rfl)
  case andShImm | eorShImm | subShImm | rsbShImm | addShImm | adcShImm | sbcShImm | rscShImm | tstShImm | teqShImm |
      cmpShImm | cmnShImm | orrShImm | movShImm | bicShImm | mvnShImm =>
    exact decodeWord_dpShImm _ _ _ _ _ _ _ _ (by rfl)
  case andShReg | eorShReg | subShReg | rsbShReg | addShReg | adcShReg | sbcShReg | rscShReg | tstShReg | teqShReg |
      cmpShReg | cmnShReg | orrShReg | movShReg | bicShReg | mvnShReg =>
    exact decodeWord_dpShReg _ _ _ _ _ _ _ _ (by rfl)
  case ldm | ldmUser | ldmRet => rw [encode, decodeWord_load]; simp_all [Instr.wf]
  case stm | stmUser | stmSPc => rw [encode, decodeWord_store]; simp_all [Instr.wf]
  case mrs => exact decodeWord_mrs ..
  case msrReg => exact decodeWord_msrReg ..
  case msrImm => exact decodeWord_msrImm ..
  case bx => exact decodeWord_bx ..
  case blxReg => exact decodeWord_blxReg ..
  case clz => exact decodeWord_clz ..
  case b => exact decodeWord_b ..
  case bl => exact decodeWord_bl ..
  case blxImm => exact decodeWord_blxImm ..
  case qadd | qsub | qdadd | qdsub | smulClass | mulClass | xlsClassH | xlsClassSb | xlsClassSh | lsImmClass | lsRegClass |
      mediaClass | cpLsClass | cpOpClass | swi =>
    exact decodeWord_encClass _ _

/-! ## From memory's bytes -/

/-- The host's table form of a word is its decoding, errors forgotten. -/
theorem decodeTableWord_toNat (w : Word) : decodeTableWord 32 w.toNat = (decodeWord w).toOption := by
  have hw : BitVec.ofNat 32 (w.toNat % 2 ^ 32) = w := by
    rw [Nat.mod_eq_of_lt w.isLt, BitVec.ofNat_toNat, BitVec.setWidth_eq]
  rw [decodeTableWord, hw, ← List.append_nil (wordBytes w), decode_wordBytes]
  cases decodeWord w <;> rfl

/-- Settles O3: bytes make their word again, and the word decodes to the instruction it encodes. -/
theorem decodeEncodeBytes : Obligations.DecodeEncodeBytes := by
  intro i rest h
  rw [encodeBytes, decode_wordBytes, decodeTableWord_toNat, decodeWord_encode h]
  exact ⟨rfl, rfl⟩

end Sys2Proof.Machine
end

section
/-! PROOFS. The family `30_encoding.md`: words and instructions. Which instruction a word is read back as, which of its fields the
decoder does not read, and that what it answers is well formed. -/

namespace Sys2Proof
open Machine

/-! ## Decode and encode -/

/-- Settles O2: the round trip of words, format by format. -/
theorem decodeEncode : Obligations.DecodeEncode := fun _ h => decodeWord_encode h

/-! ## Ignored register fields of data processing -/

/-- Settles O8: whatever the format, the tree answers the instruction of the opcode, which holds no Rn for MOV and MVN and no Rd
for the comparisons. -/
theorem ignoredRegisterFields : Obligations.IgnoredRegisterFields := by
  intro c sf r x rs rm rot imm8 amt ty o enc h
  have decodes (c : Cond) (op : BitVec 4) (s : Bool) (rn rd : RegIdx) (hop : (op.getLsbD 3 && !op.getLsbD 2 && !s) = false) :
      decodeWord (enc c op s rn rd) = .ok (dpInstr c op s rn rd o) := by
    obtain ⟨rfl, rfl⟩ | ⟨rfl, rfl⟩ | ⟨rfl, rfl⟩ := h
    · exact decodeWord_dpImm c op s rn rd rot imm8 hop
    · exact decodeWord_dpShImm c op s rn rd amt ty rm hop
    · exact decodeWord_dpShReg c op s rn rd rs ty rm hop
  exact ⟨decodes c 0b1101 sf x r rfl, decodes c 0b1111 sf x r rfl, decodes c 0b1000 true r x rfl,
    decodes c 0b1001 true r x rfl, decodes c 0b1010 true r x rfl, decodes c 0b1011 true r x rfl⟩

/-! ## Ignored fields of BX, BLX, CLZ, MRS and MSR: each format is recognised by the fields that the tree tests -/

theorem bit7_eq_selF (w : Word) : w.getLsbD 7 = (selF w).getLsbD 3 := by simp [selF]

theorem bit4_eq_selF (w : Word) : w.getLsbD 4 = (selF w).getLsbD 0 := by simp [selF]

/-- Bits 27:20, which tell the formats of R97 and R99 to R101 apart: the group, the opcode and S. -/
def headF (w : Word) : BitVec 8 := w.extractLsb' 20 8

theorem headF_getLsbD (w : Word) (i : Nat) (hi : i < 8) : (headF w).getLsbD i = w.getLsbD (20 + i) := by
  simp only [headF, BitVec.getLsbD_extractLsb', hi, decide_true, Bool.true_and]

theorem headF_extractLsb' (w : Word) (i n : Nat) (h : i + n ≤ 8) : (headF w).extractLsb' i n = w.extractLsb' (20 + i) n := by
  apply BitVec.eq_of_getLsbD_eq
  intro j hj
  rw [BitVec.getLsbD_extractLsb', BitVec.getLsbD_extractLsb', headF_getLsbD w _ (by omega), Nat.add_assoc]

theorem groupF_eq_headF (w : Word) : groupF w = (headF w).extractLsb' 5 3 := (headF_extractLsb' w 5 3 (by decide)).symm

theorem miscOpF_eq_headF (w : Word) : miscOpF w = (headF w).extractLsb' 1 2 := (headF_extractLsb' w 1 2 (by decide)).symm

theorem isMiscSpace_eq_headF (w : Word) :
    isMiscSpace w = ((headF w).getLsbD 4 && !(headF w).getLsbD 3 && !(headF w).getLsbD 0) := by
  rw [isMiscSpace, headF_getLsbD w 4 (by decide), headF_getLsbD w 3 (by decide), headF_getLsbD w 0 (by decide)]

section
variable {w : Word} {c : Cond} {psr : Psr} {rd rm : RegIdx} {mask rot : BitVec 4} {imm8 : BitVec 8}

/-- A head of group 000 in the miscellaneous space, under a selector with bit 7 = 0 (R105). -/
theorem decodeWord_of_head (hc : condF w = c.code) (hg : (headF w).extractLsb' 5 3 = 0)
    (hm : ((headF w).getLsbD 4 && !(headF w).getLsbD 3 && !(headF w).getLsbD 0) = true) (hs : (selF w).getLsbD 3 = false) :
    decodeWord w = decodeMisc c w := by
  rw [decodeWord_normal hc, decodeNormal_group0 ((groupF_eq_headF w).trans hg)]
  exact decodeGroup0_misc (by rw [bit7_eq_selF, hs]; rfl) ((isMiscSpace_eq_headF w).trans hm)

theorem decodeWord_eq_bx (hc : condF w = c.code) (hh : headF w = 0x12) (hs : selF w = 0b0001) (hrm : rmF w = rm) :
    decodeWord w = .ok (.bx c rm) := by
  rw [decodeWord_of_head hc (by rw [hh]; rfl) (by rw [hh]; rfl) (by rw [hs]; rfl), decodeMisc, hs, miscOpF_eq_headF, hh, hrm]
  rfl

theorem decodeWord_eq_blxReg (hc : condF w = c.code) (hh : headF w = 0x12) (hs : selF w = 0b0011) (hrm : rmF w = rm) :
    decodeWord w = .ok (.blxReg c rm) := by
  rw [decodeWord_of_head hc (by rw [hh]; rfl) (by rw [hh]; rfl) (by rw [hs]; rfl), decodeMisc, hs, miscOpF_eq_headF, hh, hrm]
  rfl

theorem decodeWord_eq_clz (hc : condF w = c.code) (hh : headF w = 0x16) (hrd : rdF w = rd) (hs : selF w = 0b0001)
    (hrm : rmF w = rm) : decodeWord w = .ok (.clz c rd rm) := by
  rw [decodeWord_of_head hc (by rw [hh]; rfl) (by rw [hh]; rfl) (by rw [hs]; rfl), decodeMisc, hs, miscOpF_eq_headF, hh, hrd,
    hrm]
  rfl

/-- The head of MRS and MSR, with the bit of its status register. -/
def psrHead (x : BitVec 5) (psr : Psr) (y : BitVec 2) : BitVec 8 := x ++ psr.code ++ y

theorem headF_eq_psrHead {x : BitVec 5} {y : BitVec 2} (hx : w.extractLsb' 23 5 = x) (hpsr : w.extractLsb' 22 1 = psr.code)
    (hy : w.extractLsb' 20 2 = y) : headF w = psrHead x psr y := by
  rw [psrHead, ← hx, ← hpsr, ← hy, BitVec.extractLsb'_append_extractLsb'_eq_extractLsb' (start₁ := 22) (len₁ := 1) rfl]
  exact (BitVec.extractLsb'_append_extractLsb'_eq_extractLsb' (start₁ := 20) (len₁ := 2) rfl).symm

theorem psrF_of_head {x : BitVec 5} {y : BitVec 2} (hh : headF w = psrHead x psr y) : psrF w = psr := by
  apply psrF_of_bit
  rw [← headF_getLsbD w 2 (by decide), hh]
  change (x ++ psr.code ++ y).getLsbD 2 = _
  rw [BitVec.getLsbD_append, BitVec.getLsbD_append]
  rfl

theorem bit21_of_head {x : BitVec 5} {y : BitVec 2} (hh : headF w = psrHead x psr y) : w.getLsbD 21 = y.getLsbD 1 := by
  rw [← headF_getLsbD w 1 (by decide), hh]
  change (x ++ psr.code ++ y).getLsbD 1 = _
  rw [BitVec.getLsbD_append]
  rfl

theorem decodeWord_eq_mrs (hc : condF w = c.code) (hh : headF w = psrHead 0b00010 psr 0b00) (hrd : rdF w = rd)
    (hs : selF w = 0b0000) : decodeWord w = .ok (.mrs c psr rd) := by
  rw [decodeWord_of_head hc (by rw [hh]; cases psr <;> rfl) (by rw [hh]; cases psr <;> rfl) (by rw [hs]; rfl), decodeMisc, hs,
    bit21_of_head hh, psrF_of_head hh, hrd]
  rfl

theorem decodeWord_eq_msrReg (hc : condF w = c.code) (hh : headF w = psrHead 0b00010 psr 0b10) (hmask : maskF w = mask)
    (hs : selF w = 0b0000) (hrm : rmF w = rm) : decodeWord w = .ok (.msrReg c psr mask rm) := by
  rw [decodeWord_of_head hc (by rw [hh]; cases psr <;> rfl) (by rw [hh]; cases psr <;> rfl) (by rw [hs]; rfl), decodeMisc, hs,
    bit21_of_head hh, psrF_of_head hh, hmask, hrm]
  rfl

theorem decodeWord_eq_msrImm (hc : condF w = c.code) (hh : headF w = psrHead 0b00110 psr 0b10) (hmask : maskF w = mask)
    (hrot : rotF w = rot) (himm : imm8F w = imm8) : decodeWord w = .ok (.msrImm c psr mask rot imm8) := by
  have hg : groupF w = 1 := by rw [groupF_eq_headF, hh]; cases psr <;> rfl
  have hm : isMiscSpace w = true := by rw [isMiscSpace_eq_headF, hh]; cases psr <;> rfl
  rw [decodeWord_normal hc, decodeNormal_group1 hg, decodeGroup1, hm, bit21_of_head hh, psrF_of_head hh, hmask, hrot, himm]
  rfl

end

/-- Settles O7: in each of the six words every field that the decoder tests reads as it stands there, whatever the rest. -/
theorem ignoredFieldsAreNotTested : Obligations.IgnoredFieldsAreNotTested := by
  intro c psr rd rm mask rot a b d imm8 x
  refine ⟨decodeWord_eq_bx ?_ ?_ ?_ ?_, decodeWord_eq_blxReg ?_ ?_ ?_ ?_, decodeWord_eq_clz ?_ ?_ ?_ ?_ ?_,
    decodeWord_eq_mrs ?_ (headF_eq_psrHead ?_ ?_ ?_) ?_ ?_, decodeWord_eq_msrReg ?_ (headF_eq_psrHead ?_ ?_ ?_) ?_ ?_ ?_,
    decodeWord_eq_msrImm ?_ (headF_eq_psrHead ?_ ?_ ?_) ?_ ?_ ?_⟩
  all_goals
    simp (disch := decide) only [condF, headF, rdF, selF, rmF, maskF, rotF, imm8F, BitVec.extractLsb'_append_eq_of_le,
      BitVec.extractLsb'_append_eq_of_add_le, BitVec.extractLsb'_eq_self, Nat.reduceSub, BitVec.ofNat_eq_ofNat]

/-! ## What the decoder answers is well formed -/

theorem dpInstr_wf (c : Cond) (op : BitVec 4) (s : Bool) (rn rd : RegIdx) (o : Operand2) :
    (dpInstr c op s rn rd o).wf = true := by
  unfold dpInstr
  split <;> cases o <;> rfl

/-- Bit 15 of the word is bit 15 of the list, so each S = 1 row gets the lists it may hold (R110). -/
theorem decodeLsm_wf (c : Cond) (w : Word) : (decodeLsm c w).wf = true := by
  have hpc : listsPc (listF w) = w.getLsbD 15 := by simp [listsPc, listF]
  unfold decodeLsm
  simp only
  split <;> split
  · rfl
  · split <;> simp_all [Instr.wf]
  · rfl
  · split <;> simp_all [Instr.wf]

section
variable {c : Cond} {w : Word} {i : Instr}

theorem decodeMulXls_wf (h : decodeMulXls c w = .ok i) : i.wf = true := by
  unfold decodeMulXls at h
  repeat' split at h
  all_goals cases h <;> rfl

theorem decodeMisc_wf (h : decodeMisc c w = .ok i) : i.wf = true := by
  unfold decodeMisc at h
  repeat' split at h
  all_goals cases h <;> rfl

theorem decodeGroup0_wf (h : decodeGroup0 c w = .ok i) : i.wf = true := by
  rw [decodeGroup0, decodeDpShReg_eq, decodeDpShImm_eq] at h
  split at h
  · exact decodeMulXls_wf h
  split at h
  · exact decodeMisc_wf h
  split at h <;> cases h <;> exact dpInstr_wf ..

theorem decodeGroup1_wf (h : decodeGroup1 c w = .ok i) : i.wf = true := by
  rw [decodeGroup1, decodeDpImm_eq] at h
  repeat' split at h
  · cases h; rfl
  · cases h
  · cases h; exact dpInstr_wf ..

theorem decodeNormal_wf (h : decodeNormal c w = .ok i) : i.wf = true := by
  unfold decodeNormal at h
  split at h
  · exact decodeGroup0_wf h
  · exact decodeGroup1_wf h
  · cases h; rfl
  · cases h; split <;> rfl
  · cases h; exact decodeLsm_wf ..
  · cases h; split <;> rfl
  · cases h; rfl
  · cases h; split <;> rfl

theorem decodeUnconditional_wf (h : decodeUnconditional w = .ok i) : i.wf = true := by
  unfold decodeUnconditional at h
  split at h <;> cases h
  rfl

end

/-- Settles O4, branch by branch of the tree; only the block transfers have anything to check. -/
theorem decodedIsWellFormed : Obligations.DecodedIsWellFormed := by
  intro w i h
  unfold decodeWord at h
  split at h
  · exact decodeUnconditional_wf h
  · exact decodeNormal_wf h

end Sys2Proof
end

section
/-! PROOFS. The family `30_encoding.md`, continued: the words that the decode tree rejects, branch by branch, and R116's list of
them. -/

namespace Sys2Proof

/-! ## What each branch of the tree rejects -/

/-- The selectors of the miscellaneous space that R107 gives no row (R116 items 3, 4 and 5). -/
def MiscRejects (sel : BitVec 4) (op : BitVec 2) : Prop :=
  (sel = 0b0010 ∨ sel = 0b0100 ∨ sel = 0b0110 ∨ sel = 0b0111) ∨ (sel = 0b0001 ∧ (op = 0b00 ∨ op = 0b10)) ∨
  (sel = 0b0011 ∧ op ≠ 0b01)

/-- Outside the columns 0000, 0001, 0011 and 0101, bit 7 tells the rejected selectors from the signed multiplies. -/
theorem miscRejects_iff_of_not_named {sel : BitVec 4} {op : BitVec 2} (h0 : sel ≠ 0b0000) (h1 : sel ≠ 0b0001)
    (h3 : sel ≠ 0b0011) (h5 : sel ≠ 0b0101) : MiscRejects sel op ↔ sel.getLsbD 3 = false := by
  unfold MiscRejects
  revert sel op
  decide

/-- None of these selectors has bits 7 and 4 both 1, which R105 tests first. -/
theorem MiscRejects.not_mulXls {sel : BitVec 4} {op : BitVec 2} (h : MiscRejects sel op) :
    (sel.getLsbD 3 && sel.getLsbD 0) = false := by
  unfold MiscRejects at h
  revert sel op
  decide

theorem bxColumn_cases {op : BitVec 2} (h1 : op ≠ 0b01) (h3 : op ≠ 0b11) : op = 0b00 ∨ op = 0b10 := by
  revert op
  decide

theorem decodeUnconditional_error {w : Word} : (∃ r, decodeUnconditional w = .error r) ↔ groupF w ≠ 0b101 := by
  unfold decodeUnconditional
  split <;> simp_all

theorem decodeMulXls_error {c : Cond} {w : Word} :
    (∃ r, decodeMulXls c w = .error r) ↔ selF w = 0b1001 ∧ w.getLsbD 24 = true := by
  unfold decodeMulXls
  repeat' split
  all_goals simp_all

theorem decodeMisc_error {c : Cond} {w : Word} :
    (∃ r, decodeMisc c w = .error r) ↔ MiscRejects (selF w) (miscOpF w) := by
  unfold decodeMisc
  split
  case isTrue h0 => split <;> simp [MiscRejects, h0]
  split
  case isTrue h1 =>
    split
    · simp_all [MiscRejects]
    split
    · simp_all [MiscRejects]
    case isFalse hbx hclz => exact iff_of_true ⟨_, rfl⟩ (.inr (.inl ⟨h1, bxColumn_cases hbx hclz⟩))
  split
  case isTrue h3 => split <;> simp_all [MiscRejects]
  split
  case isTrue h5 =>
    repeat' split
    all_goals simp [MiscRejects, h5]
  case isFalse h0 h1 h3 h5 =>
    rw [miscRejects_iff_of_not_named h0 h1 h3 h5, bit7_eq_selF]
    split <;> simp_all

theorem decodeGroup0_error {c : Cond} {w : Word} :
    (∃ r, decodeGroup0 c w = .error r) ↔
      (selF w = 0b1001 ∧ w.getLsbD 24 = true) ∨ (isMiscSpace w = true ∧ MiscRejects (selF w) (miscOpF w)) := by
  rw [decodeGroup0, bit7_eq_selF, bit4_eq_selF]
  split
  case isTrue h74 =>
    have hno : ¬ MiscRejects (selF w) (miscOpF w) := fun h => absurd (h.not_mulXls.symm.trans h74) (by decide)
    simp only [decodeMulXls_error, hno, and_false, or_false]
  case isFalse h74 =>
    have hno : selF w ≠ 0b1001 := fun h => h74 (by rw [h]; rfl)
    split
    case isTrue hm => simp only [decodeMisc_error, hno, hm, false_and, true_and, false_or]
    case isFalse hm => split <;> simp only [hno, hm, false_and, or_self, reduceCtorEq, exists_false, Bool.false_eq_true]

theorem decodeGroup1_error {c : Cond} {w : Word} :
    (∃ r, decodeGroup1 c w = .error r) ↔ isMiscSpace w = true ∧ w.getLsbD 21 = false := by
  unfold decodeGroup1
  repeat' split
  all_goals simp_all

theorem decodeNormal_error {c : Cond} {w : Word} :
    (∃ r, decodeNormal c w = .error r) ↔
      (groupF w = 0b000 ∧ ∃ r, decodeGroup0 c w = .error r) ∨ (groupF w = 0b001 ∧ ∃ r, decodeGroup1 c w = .error r) := by
  by_cases h0 : groupF w = 0b000
  · simp [decodeNormal_group0 h0, h0]
  by_cases h1 : groupF w = 0b001
  · simp [decodeNormal_group1 h1, h1]
  simp only [h0, h1, false_and, or_self, iff_false, not_exists]
  intro r
  have h0' : (groupF w).toNat ≠ 0 := fun h => h0 (BitVec.eq_of_toNat_eq h)
  have h1' : (groupF w).toNat ≠ 1 := fun h => h1 (BitVec.eq_of_toNat_eq h)
  unfold decodeNormal
  split <;> simp_all

/-! ## R116 writes its sets in runs of bits that the tree reads in parts -/

theorem extractLsb'_succ (w : Word) (p n : Nat) :
    w.extractLsb' p (n + 1) = w.extractLsb' (p + 1) n ++ BitVec.ofBool (w.getLsbD p) := by
  rw [← BitVec.extractLsb'_append_extractLsb'_eq_extractLsb' (rfl : p + 1 = p + 1), BitVec.getLsbD_eq_extractLsb']
  generalize w.extractLsb' p 1 = x
  congr 1
  revert x
  decide

theorem miscSpace_bits (w : Word) (g : BitVec 3) :
    (w.extractLsb' 23 5 = g ++ 0b10#2 ∧ w.getLsbD 20 = false) ↔ (groupF w = g ∧ isMiscSpace w = true) := by
  rw [extractLsb'_succ w 23 4, extractLsb'_succ w 24 3, isMiscSpace, groupF]
  generalize w.extractLsb' (24 + 1) 3 = g'
  generalize w.getLsbD 24 = b24, w.getLsbD 23 = b23, w.getLsbD 20 = b20
  revert g g' b24 b23 b20
  decide

theorem bits20_21_eq_zero (w : Word) : w.extractLsb' 20 2 = 0b00 ↔ (w.getLsbD 20 = false ∧ w.getLsbD 21 = false) := by
  rw [extractLsb'_succ w 20 1, extractLsb'_succ w 21 0]
  generalize w.extractLsb' (21 + 1) 0 = e
  generalize w.getLsbD 20 = b20, w.getLsbD 21 = b21
  revert e b20 b21
  decide

theorem bits24_27_eq_one (w : Word) : w.extractLsb' 24 4 = 0b0001 ↔ (groupF w = 0b000 ∧ w.getLsbD 24 = true) := by
  rw [extractLsb'_succ w 24 3, groupF]
  generalize w.extractLsb' (24 + 1) 3 = g
  generalize w.getLsbD 24 = b24
  revert g b24
  decide

/-- A condition field holds the code of a condition or 1111 (R150, R152). -/
theorem condF_cases (w : Word) : condF w = 0b1111 ∨ ∃ c : Cond, condF w = c.code := by
  cases h : Cond.ofCode (condF w) with
  | none => exact .inl (Cond.ofCode_none.1 h)
  | some c => exact .inr ⟨c, (Cond.code_ofCode h).symm⟩

theorem Cond.code_ne_unconditional (c : Cond) : c.code ≠ 0b1111 := by cases c <;> decide

/-- Settles O6: R116's sets are what the branches of the tree reject, with the group and the space written as runs of bits. -/
theorem decodeFailureWords : Obligations.DecodeFailureWords := by
  intro w
  have h0 : w.extractLsb' 23 5 = 0b00010 ∧ w.getLsbD 20 = false ↔ groupF w = 0b000 ∧ isMiscSpace w = true :=
    miscSpace_bits w 0b000
  have h1 : w.extractLsb' 23 5 = 0b00110 ∧ w.getLsbD 20 = false ↔ groupF w = 0b001 ∧ isMiscSpace w = true :=
    miscSpace_bits w 0b001
  rw [bits20_21_eq_zero, bits24_27_eq_one, ← condF, ← groupF, ← selF, ← miscOpF]
  simp only [← and_assoc, h0, h1]
  obtain hc | ⟨c, hc⟩ := condF_cases w
  · rw [decodeWord_unconditional hc, decodeUnconditional_error]
    grind
  · have hne : condF w ≠ 0b1111 := hc ▸ c.code_ne_unconditional
    rw [decodeWord_normal hc, decodeNormal_error, decodeGroup0_error, decodeGroup1_error, MiscRejects]
    grind

end Sys2Proof
end

section
/-! PROOFS. The family `30_encoding.md`, continued: the decode tree against the opcode table (R120). Rows and tests of the tree are
both fixed bits of a word. The row of what the tree answers selects the word, rows exclude each other, and the sets of R116 exclude
every row. -/

namespace Sys2Proof
open Machine

/-! ## Rows of the opcode table -/

/-- The bits of `m` stand in the word as they stand in `v`: what the table asks of a word, and what a test of the tree finds. -/
def Fixed (w m v : Word) : Prop := w &&& m = v

/-- The mask of the `n` bits from `p` up. -/
def ones (n p : Nat) : Word := atBit n (BitVec.allOnes n) p

theorem Fixed.field {w : Word} {p n : Nat} {x : BitVec n} (h : w.extractLsb' p n = x) : Fixed w (ones n p) (atBit n x p) := by
  subst h
  apply BitVec.eq_of_getLsbD_eq
  intro i hi
  rw [BitVec.getLsbD_and, ones, getLsbD_atBit, getLsbD_atBit, BitVec.getLsbD_extractLsb', BitVec.getLsbD_allOnes]
  by_cases hp : p ≤ i
  · simp [hp, hi, Bool.and_comm]
  · simp [hp]

theorem Fixed.bit {w : Word} {p : Nat} {b : Bool} (h : w.getLsbD p = b) : Fixed w (ones 1 p) (bitAt b p) := by
  refine Fixed.field ?_
  rw [← h, BitVec.getLsbD_eq_extractLsb']
  generalize w.extractLsb' p 1 = x
  revert x
  decide

theorem Fixed.and {w m v m' v' : Word} (h : Fixed w m v) (h' : Fixed w m' v') : Fixed w (m ||| m') (v ||| v') := by
  unfold Fixed at *
  rw [BitVec.and_or_distrib_left, h, h']

theorem selects_iff {r : TableRow} {w : Word} :
    r.selects w = true ↔ Fixed w r.mask r.value ∧ (r.normal = true → condF w ≠ 0b1111) := by
  cases hn : r.normal <;> simp [TableRow.selects, Fixed, hn]

theorem Fixed.selects {w m v : Word} {normal : Bool} (h : Fixed w m v) (hn : normal = true → condF w ≠ 0b1111) :
    TableRow.selects ⟨m, v, normal⟩ w = true := selects_iff.2 ⟨h, hn⟩

/-- No word has the fixed bits of both rows under a condition that both allow: a bit fixed by both stands differently, or one fixes
condition 1111, which the other's table excludes (R120). -/
def TableRow.conflicts (r r' : TableRow) : Bool :=
  r.value &&& r'.mask != r'.value &&& r.mask || r.normal && condF r'.value == 0b1111 || r'.normal && condF r.value == 0b1111

/-- A row whose fixed bits say condition 1111 selects such words only. -/
theorem Fixed.condF_eq {w m v : Word} (h : Fixed w m v) (hv : condF v = 0b1111) : condF w = 0b1111 := by
  rw [← h, condF, BitVec.extractLsb'_and] at hv
  rw [condF]
  generalize w.extractLsb' 28 4 = x, m.extractLsb' 28 4 = y at hv ⊢
  revert x y
  decide

theorem Fixed.agree {w m v m' v' : Word} (h : Fixed w m v) (h' : Fixed w m' v') : v &&& m' = v' &&& m := by
  rw [← h, ← h', BitVec.and_assoc, BitVec.and_assoc, BitVec.and_comm m m']

theorem not_selects_of_conflicts {r r' : TableRow} {w : Word} (hrr : TableRow.conflicts r r' = true)
    (h : r.selects w = true) (h' : r'.selects w = true) : False := by
  obtain ⟨hf, hn⟩ := selects_iff.1 h
  obtain ⟨hf', hn'⟩ := selects_iff.1 h'
  simp only [TableRow.conflicts, Bool.or_eq_true, Bool.and_eq_true, bne_iff_ne, beq_iff_eq] at hrr
  obtain (hne | ⟨hr, hv⟩) | ⟨hr, hv⟩ := hrr
  · exact hne (hf.agree hf')
  · exact hn hr (hf'.condF_eq hv)
  · exact hn' hr (hf.condF_eq hv)

/-- The rows of the table exclude each other, a fact of its masks and values (R120). -/
theorem opcodeTable_conflicts : opcodeTable.Pairwise (fun r r' => TableRow.conflicts r r' = true) := by
  decide

/-- A word selects at most one row (R120). -/
theorem rowIndex_unique {w : Word} {j k : Nat} {r r' : TableRow} (hj : opcodeTable[j]? = some r) (hk : opcodeTable[k]? = some r')
    (h : r.selects w = true) (h' : r'.selects w = true) : j = k := by
  obtain ⟨hjlt, rfl⟩ := List.getElem?_eq_some_iff.1 hj
  obtain ⟨hklt, rfl⟩ := List.getElem?_eq_some_iff.1 hk
  have apart := List.pairwise_iff_getElem.1 opcodeTable_conflicts
  obtain hlt | heq | hgt := Nat.lt_trichotomy j k
  · exact (not_selects_of_conflicts (apart j k hjlt hklt hlt) h h').elim
  · exact heq
  · exact (not_selects_of_conflicts (apart k j hklt hjlt hgt) h' h).elim

/-- The word selects row `k` of the table. -/
def SelectsRow (w : Word) (k : Nat) : Prop := ∃ r, opcodeTable[k]? = some r ∧ r.selects w = true

theorem SelectsRow.of_fixed {w m v : Word} (k : Nat) (hc : condF w ≠ 0b1111) (hw : Fixed w m v)
    (hk : opcodeTable[k]? = some ⟨m, v, true⟩) : SelectsRow w k :=
  ⟨_, hk, hw.selects fun _ => hc⟩

/-- A word of a set that conflicts with every row selects none. -/
theorem not_selectsRow {w : Word} {k : Nat} {r : TableRow} (h : r.selects w = true)
    (hall : opcodeTable.all r.conflicts = true) : ¬ SelectsRow w k := by
  rintro ⟨r', hk, h'⟩
  exact not_selects_of_conflicts (List.all_eq_true.1 hall r' (List.mem_of_getElem? hk)) h h'

/-- Bit 20 where it is no operand: the comparisons have S = 1 (R105, R106). -/
def compareS (op : BitVec 4) : Word := if op.getLsbD 3 && !op.getLsbD 2 then bitAt true 20 else 0

theorem fixed_compareS {w : Word} (h : ¬ isMiscSpace w = true) : Fixed w (compareS (opcodeF w)) (compareS (opcodeF w)) := by
  have h3 : (opcodeF w).getLsbD 3 = w.getLsbD 24 := by simp [opcodeF]
  have h2 : (opcodeF w).getLsbD 2 = w.getLsbD 23 := by simp [opcodeF]
  rw [compareS, h3, h2]
  split
  case isTrue hop =>
    have h20 : w.getLsbD 20 = true := by rw [isMiscSpace, hop] at h; simpa using h
    exact Fixed.bit h20
  case isFalse => exact BitVec.and_zero

/-- The three data-processing rows of an opcode stand in this order. -/
def formatIndex : Operand2 → Nat
  | .imm .. => 0
  | .shImm .. => 1
  | .shReg .. => 2

theorem dpInstr_rowIndex (c : Cond) (op : BitVec 4) (s : Bool) (rn rd : RegIdx) (o : Operand2) :
    (dpInstr c op s rn rd o).rowIndex = 3 * op.toNat + formatIndex o := by
  unfold dpInstr
  have hop := op.isLt
  generalize op.toNat = n at hop ⊢
  interval_cases n <;> cases o <;> rfl

/-- The fixed bits of group and opcode, and of S for a comparison. -/
theorem fixed_dataProcessing {w : Word} {g : BitVec 3} (hg : groupF w = g) (hm : ¬ isMiscSpace w = true) :
    Fixed w (ones 3 25 ||| ones 4 21 ||| compareS (opcodeF w)) (atBit 3 g 25 ||| atBit 4 (opcodeF w) 21 ||| compareS (opcodeF w)) :=
  ((Fixed.field hg).and (Fixed.field rfl)).and (fixed_compareS hm)

theorem dpImm_row (op : BitVec 4) : opcodeTable[3 * op.toNat + 0]? =
    some ⟨ones 3 25 ||| ones 4 21 ||| compareS op, atBit 3 1 25 ||| atBit 4 op 21 ||| compareS op, true⟩ := by
  revert op
  decide

theorem dpShImm_row (op : BitVec 4) : opcodeTable[3 * op.toNat + 1]? =
    some ⟨ones 3 25 ||| ones 4 21 ||| compareS op ||| ones 1 4,
      atBit 3 0 25 ||| atBit 4 op 21 ||| compareS op ||| bitAt false 4, true⟩ := by
  revert op
  decide

theorem dpShReg_row (op : BitVec 4) : opcodeTable[3 * op.toNat + 2]? =
    some ⟨ones 3 25 ||| ones 4 21 ||| compareS op ||| ones 1 7 ||| ones 1 4,
      atBit 3 0 25 ||| atBit 4 op 21 ||| compareS op ||| bitAt false 7 ||| bitAt true 4, true⟩ := by
  revert op
  decide

theorem fixed_miscSpace {w : Word} {g : BitVec 3} (hg : groupF w = g) (hm : isMiscSpace w = true) :
    Fixed w (ones 3 25 ||| ones 1 24 ||| ones 1 23 ||| ones 1 20)
      (atBit 3 g 25 ||| bitAt true 24 ||| bitAt false 23 ||| bitAt false 20) := by
  simp only [isMiscSpace, Bool.and_eq_true, Bool.not_eq_true'] at hm
  obtain ⟨⟨h24, h23⟩, h20⟩ := hm
  exact (((Fixed.field hg).and (.bit h24)).and (.bit h23)).and (.bit h20)

/-- The last column of R107's saturating row, after the tree's three tests. -/
theorem miscOp_last {op : BitVec 2} (h0 : op ≠ 0b00) (h1 : op ≠ 0b01) (h2 : op ≠ 0b10) : op = 0b11 := by
  revert op
  decide

theorem groupF_cases (w : Word) : groupF w = 0 ∨ groupF w = 1 ∨ groupF w = 2 ∨ groupF w = 3 ∨ groupF w = 4 ∨ groupF w = 5 ∨
    groupF w = 6 ∨ groupF w = 7 := by
  generalize groupF w = g
  revert g
  decide

/-! ## The row of what the tree answers -/

section
variable {c : Cond} {w : Word} {i : Instr}

theorem selectsRow_decodeMulXls (hc : condF w ≠ 0b1111) (hg : groupF w = 0) (h7 : w.getLsbD 7 = true) (h4 : w.getLsbD 4 = true)
    (h : decodeMulXls c w = .ok i) : SelectsRow w i.rowIndex := by
  have hgroup := Fixed.field hg
  unfold decodeMulXls at h
  split at h
  case isTrue hsel =>
    split at h
    · cases h
    case isFalse h24 =>
      cases h
      exact .of_fixed 59 hc ((hgroup.and (.bit (eq_false_of_ne_true h24))).and (.field hsel)) (by decide)
  case isFalse h9 =>
    split at h
    case isTrue hsel => cases h; exact .of_fixed 60 hc (hgroup.and (.field hsel)) (by decide)
    case isFalse hB =>
      split at h
      case isTrue hsel => cases h; exact .of_fixed 61 hc (hgroup.and (.field hsel)) (by decide)
      case isFalse hD =>
        have hsel : selF w = 0b1111 := by
          rw [bit7_eq_selF] at h7
          rw [bit4_eq_selF] at h4
          generalize selF w = sel at *
          revert sel
          decide
        cases h
        exact .of_fixed 62 hc (hgroup.and (.field hsel)) (by decide)

theorem selectsRow_decodeMisc (hc : condF w ≠ 0b1111) (hg : groupF w = 0) (hm : isMiscSpace w = true)
    (h74 : (w.getLsbD 7 && w.getLsbD 4) = false) (h : decodeMisc c w = .ok i) : SelectsRow w i.rowIndex := by
  have hspace := fixed_miscSpace hg hm
  unfold decodeMisc at h
  split at h
  case isTrue hsel =>
    split at h
    case isTrue h21 => cases h; exact .of_fixed 49 hc ((hspace.and (.bit h21)).and (.field hsel)) (by decide)
    case isFalse h21 =>
      cases h
      exact .of_fixed 48 hc ((hspace.and (.bit (eq_false_of_ne_true h21))).and (.field hsel)) (by decide)
  split at h
  case isTrue hsel =>
    have hcolumn := hspace.and (.field hsel)
    split at h
    case isTrue hop => cases h; exact .of_fixed 51 hc (hcolumn.and (.field hop)) (by decide)
    split at h
    case isTrue hop => cases h; exact .of_fixed 53 hc (hcolumn.and (.field hop)) (by decide)
    cases h
  split at h
  case isTrue hsel =>
    split at h
    case isTrue hop => cases h; exact .of_fixed 52 hc ((hspace.and (.field hsel)).and (.field hop)) (by decide)
    cases h
  split at h
  case isTrue hsel =>
    have hcolumn := hspace.and (.field hsel)
    split at h
    case isTrue hop => cases h; exact .of_fixed 54 hc (hcolumn.and (.field hop)) (by decide)
    split at h
    case isTrue hop => cases h; exact .of_fixed 55 hc (hcolumn.and (.field hop)) (by decide)
    split at h
    case isTrue hop => cases h; exact .of_fixed 56 hc (hcolumn.and (.field hop)) (by decide)
    case isFalse h0 h1 h2 =>
      cases h
      exact .of_fixed 57 hc (hcolumn.and (.field (miscOp_last h0 h1 h2))) (by decide)
  split at h
  case isTrue h7 =>
    have h4 : w.getLsbD 4 = false := by simpa only [h7, Bool.true_and] using h74
    cases h
    exact .of_fixed 58 hc ((hspace.and (.bit h7)).and (.bit h4)) (by decide)
  cases h

theorem selectsRow_decodeGroup0 (hc : condF w ≠ 0b1111) (hg : groupF w = 0) (h : decodeGroup0 c w = .ok i) :
    SelectsRow w i.rowIndex := by
  rw [decodeGroup0, decodeDpShReg_eq, decodeDpShImm_eq] at h
  split at h
  case isTrue h74 =>
    obtain ⟨h7, h4⟩ := Bool.and_eq_true_iff.1 h74
    exact selectsRow_decodeMulXls hc hg h7 h4 h
  case isFalse h74 =>
    have h74 := eq_false_of_ne_true h74
    split at h
    case isTrue hm => exact selectsRow_decodeMisc hc hg hm h74 h
    case isFalse hm =>
      have hdp := fixed_dataProcessing hg hm
      split at h
      case isTrue h4 =>
        have h7 : w.getLsbD 7 = false := by simpa only [h4, Bool.and_true] using h74
        cases h
        rw [dpInstr_rowIndex]
        exact .of_fixed _ hc ((hdp.and (.bit h7)).and (.bit h4)) (dpShReg_row _)
      case isFalse h4 =>
        cases h
        rw [dpInstr_rowIndex]
        exact .of_fixed _ hc (hdp.and (.bit (eq_false_of_ne_true h4))) (dpShImm_row _)

theorem selectsRow_decodeGroup1 (hc : condF w ≠ 0b1111) (hg : groupF w = 1) (h : decodeGroup1 c w = .ok i) :
    SelectsRow w i.rowIndex := by
  rw [decodeGroup1, decodeDpImm_eq] at h
  split at h
  case isTrue hm =>
    split at h
    case isTrue h21 => cases h; exact .of_fixed 50 hc ((fixed_miscSpace hg hm).and (.bit h21)) (by decide)
    cases h
  case isFalse hm =>
    cases h
    rw [dpInstr_rowIndex]
    exact .of_fixed _ hc (fixed_dataProcessing hg hm) (dpImm_row _)

theorem selectsRow_decodeLsm (hc : condF w ≠ 0b1111) (hg : groupF w = 4) : SelectsRow w (decodeLsm c w).rowIndex := by
  have hform {l s : Bool} (hl : w.getLsbD 20 = l) (hs : w.getLsbD 22 = s) :=
    ((Fixed.field hg).and (.bit hl)).and (.bit hs)
  unfold decodeLsm
  cases hl : w.getLsbD 20 <;> cases hs : w.getLsbD 22
  · exact .of_fixed 69 hc (hform hl hs) (by decide)
  · cases hpc : w.getLsbD 15
    · exact .of_fixed 70 hc ((hform hl hs).and (.bit hpc)) (by decide)
    · exact .of_fixed 71 hc ((hform hl hs).and (.bit hpc)) (by decide)
  · exact .of_fixed 66 hc (hform hl hs) (by decide)
  · cases hpc : w.getLsbD 15
    · exact .of_fixed 67 hc ((hform hl hs).and (.bit hpc)) (by decide)
    · exact .of_fixed 68 hc ((hform hl hs).and (.bit hpc)) (by decide)

theorem selectsRow_decodeNormal (hc : condF w ≠ 0b1111) (h : decodeNormal c w = .ok i) : SelectsRow w i.rowIndex := by
  obtain hg | hg | hg | hg | hg | hg | hg | hg := groupF_cases w
  · exact selectsRow_decodeGroup0 hc hg (decodeNormal_group0 hg ▸ h)
  · exact selectsRow_decodeGroup1 hc hg (decodeNormal_group1 hg ▸ h)
  · rw [decodeNormal, hg] at h
    cases h
    exact .of_fixed 63 hc (.field hg) (by decide)
  · rw [decodeNormal, hg] at h
    cases h4 : w.getLsbD 4 <;> rw [h4] at h <;> cases h
    · exact .of_fixed 64 hc ((Fixed.field hg).and (.bit h4)) (by decide)
    · exact .of_fixed 65 hc ((Fixed.field hg).and (.bit h4)) (by decide)
  · rw [decodeNormal_group4 hg] at h
    cases h
    exact selectsRow_decodeLsm hc hg
  · rw [decodeNormal_group5 hg] at h
    cases h24 : w.getLsbD 24 <;> rw [h24] at h <;> cases h
    · exact .of_fixed 72 hc ((Fixed.field hg).and (.bit h24)) (by decide)
    · exact .of_fixed 73 hc ((Fixed.field hg).and (.bit h24)) (by decide)
  · rw [decodeNormal, hg] at h
    cases h
    exact .of_fixed 74 hc (.field hg) (by decide)
  · rw [decodeNormal, hg] at h
    cases h24 : w.getLsbD 24 <;> rw [h24] at h <;> cases h
    · exact .of_fixed 75 hc ((Fixed.field hg).and (.bit h24)) (by decide)
    · exact .of_fixed 76 hc ((Fixed.field hg).and (.bit h24)) (by decide)

theorem selectsRow_decodeUnconditional (hc : condF w = 0b1111) (h : decodeUnconditional w = .ok i) :
    SelectsRow w i.rowIndex := by
  unfold decodeUnconditional at h
  split at h
  case isTrue hg =>
    cases h
    exact ⟨⟨_, _, false⟩, rfl, ((Fixed.field hc).and (.field hg)).selects nofun⟩
  cases h

/-- The row of what the decoder answers selects the word. -/
theorem selectsRow_decodeWord (h : decodeWord w = .ok i) : SelectsRow w i.rowIndex := by
  obtain hc | ⟨c, hc⟩ := condF_cases w
  · exact selectsRow_decodeUnconditional hc (decodeWord_unconditional hc ▸ h)
  · exact selectsRow_decodeNormal (hc ▸ c.code_ne_unconditional) (decodeWord_normal hc ▸ h)

end

/-! ## A word that selects a row is not rejected -/

theorem notBlx_conflict (g : BitVec 3) (h : g ≠ 0b101) :
    opcodeTable.all (TableRow.conflicts ⟨ones 4 28 ||| ones 3 25, atBit 4 0b1111 28 ||| atBit 3 g 25, false⟩) = true := by
  revert g
  decide

theorem blxColumn_conflict (op : BitVec 2) (h : op ≠ 0b01) :
    opcodeTable.all (TableRow.conflicts ⟨ones 5 23 ||| ones 1 20 ||| ones 4 4 ||| ones 2 21,
      atBit 5 0b00010 23 ||| bitAt false 20 ||| atBit 4 0b0011 4 ||| atBit 2 op 21, true⟩) = true := by
  revert op
  decide

/-- Each set of R116 is given by fixed bits, as a row is, and conflicts with all 78 rows. -/
theorem not_selectsRow_of_rejected {w : Word} {r : Reject} {k : Nat} (h : decodeWord w = .error r) : ¬ SelectsRow w k := by
  obtain ⟨hc, hg⟩ | ⟨hc, hsets⟩ := (decodeFailureWords w).1 ⟨r, h⟩
  · have hgroup : Fixed w (ones 3 25) (atBit 3 (w.extractLsb' 25 3) 25) := .field rfl
    exact not_selectsRow (((Fixed.field hc).and hgroup).selects (normal := false) nofun) (notBlx_conflict _ hg)
  have reject {m v : Word} (hf : Fixed w m v) (hall : opcodeTable.all (TableRow.conflicts ⟨m, v, true⟩) = true) :
      ¬ SelectsRow w k :=
    not_selectsRow (hf.selects fun _ => hc) hall
  obtain ⟨hg, hs⟩ | ⟨hg, h20, hsel⟩ | ⟨hg, h20, hsel, hop⟩ | ⟨hg, h20, hsel, hop⟩ | ⟨hg, hsel⟩ := hsets
  · exact reject ((Fixed.field hg).and (.field hs)) (by decide)
  · have hspace := (Fixed.field hg).and (.bit h20)
    obtain hsel | hsel | hsel | hsel := hsel <;> exact reject (hspace.and (.field hsel)) (by decide)
  · have hcolumn := ((Fixed.field hg).and (.bit h20)).and (.field hsel)
    obtain hop | hop := hop <;> exact reject (hcolumn.and (.field hop)) (by decide)
  · exact reject ((((Fixed.field hg).and (.bit h20)).and (.field hsel)).and (.field rfl)) (blxColumn_conflict _ hop)
  · exact reject ((Fixed.field hg).and (.field hsel)) (by decide)

/-- Settles O5: the tree answers an instruction whose row selects the word, rows exclude each other, and a rejected word selects
none. -/
theorem decodeMatchesOpcodeTable : Obligations.DecodeMatchesOpcodeTable := by
  intro w k
  constructor
  · rintro ⟨r, hk, hr⟩
    cases hd : decodeWord w with
    | error _ => exact (not_selectsRow_of_rejected hd ⟨r, hk, hr⟩).elim
    | ok i =>
      obtain ⟨r', hi, hr'⟩ := selectsRow_decodeWord hd
      exact ⟨i, rfl, rowIndex_unique hi hk hr' hr⟩
  · rintro ⟨i, hd, rfl⟩
    exact selectsRow_decodeWord hd

end Sys2Proof
end

section
/-! PROOFS. The family `40_register_bank.md`: which SPSR is active after a mode switch (R134, R137). -/

namespace Sys2Proof.Machine

/-- The SPSR seen for the current mode is the active one (R34). -/
theorem State.spsrIn_self (s : State) : s.spsrIn s.mode = s.spsr := if_pos rfl

/-- The SPSR seen for any other mode is what its slot holds (R34). -/
theorem State.spsrIn_of_ne (s : State) {m : Mode} (h : m ≠ s.mode) : s.spsrIn m = s.storedSpsr m := if_neg h

/-- A switch to a mode with an SPSR shows the SPSR of that mode (R133). -/
theorem State.spsr_switchMode (s : State) {m : Mode} (hm : m.hasSpsr = true) : (s.switchMode m).spsr = s.spsrIn m :=
  calc (s.switchMode m).spsr
      = (s.switchMode m).spsrIn (s.switchMode m).mode := (s.switchMode m).spsrIn_self.symm
    _ = (s.switchMode m).spsrIn m := by rw [State.switchMode_mode]
    _ = s.spsrIn m := s.spsrIn_switchMode m m hm

/-- Settles O49, from the view of the SPSRs that a switch keeps: the incoming mode's SPSR, not current before, was in its
slot. -/
theorem switchModeSpsr : Obligations.SwitchModeSpsr := by
  intro s
  refine ⟨State.switchMode_of_mode_eq rfl, fun _ hm => s.switchMode_spsr_of_none hm, fun m hne hm => ?_⟩
  rw [s.spsr_switchMode hm, s.spsrIn_of_ne hne]

end Sys2Proof.Machine
end

section
/-! PROOFS. The family `41_condition_and_step.md`: the condition codes, and what they say after CMP; the phases of a step one by one
(the halt, the fetch, the condition, decode and execute), and the halt under every call of the driver. -/

namespace Sys2Proof.Machine

/-! ## The adder (R194), and subtraction through it (R196) -/

theorem addWithCarry_r (a b : Word) (cin : Bool) : (addWithCarry a b cin).r = a + b + BitVec.ofNat 32 cin.toNat := by
  apply BitVec.eq_of_toNat_eq
  simp [addWithCarry]

theorem addWithCarry_cf (a b : Word) (cin : Bool) :
    (addWithCarry a b cin).cf = FlagUpd.ofBool (decide (2 ^ 32 ≤ a.toNat + b.toNat + cin.toNat)) := rfl

theorem getLsbD_31_eq_neg (v : Word) : v.getLsbD 31 = decide (v.toInt < 0) :=
  (BitVec.msb_eq_getLsbD_last v).symm.trans BitVec.msb_eq_toInt

/-- Wrapping the sum or difference of two words to 32 bits keeps its sign unless it leaves the signed range. -/
theorem wrapped_sign {x : Int} (lo : -2 ^ 32 ≤ x) (hi : x < 2 ^ 32) :
    (BitVec.ofInt 32 x).getLsbD 31 = (decide (x < 0) != signedOverflow x) := by
  rw [getLsbD_31_eq_neg, BitVec.toInt_ofInt, Int.bmod_def, signedOverflow, Bool.eq_iff_iff]
  simp only [bne_iff_ne, ne_eq, decide_eq_decide, decide_eq_true_eq]
  split <;> omega

theorem toInt_bounds (v : Word) : -2 ^ 31 ≤ v.toInt ∧ v.toInt < 2 ^ 31 := ⟨v.le_toInt, v.toInt_lt⟩

theorem addWithCarry_r_eq_ofInt (a b : Word) (cin : Bool) :
    (addWithCarry a b cin).r = BitVec.ofInt 32 (a.toInt + b.toInt + cin.toNat) := by
  rw [addWithCarry_r, BitVec.ofInt_add, BitVec.ofInt_add, BitVec.ofInt_toInt, BitVec.ofInt_toInt, BitVec.ofInt_natCast]

/-- The test of the three signs is the signed sum leaving the 32-bit range: it can only where the inputs have one sign. -/
theorem addWithCarry_vf (a b : Word) (cin : Bool) :
    (addWithCarry a b cin).vf = FlagUpd.ofBool (signedOverflow (a.toInt + b.toInt + cin.toNat)) := by
  show FlagUpd.ofBool (a.getLsbD 31 == b.getLsbD 31 && (addWithCarry a b cin).r.getLsbD 31 != a.getLsbD 31) = _
  obtain ⟨hal, hau⟩ := toInt_bounds a
  obtain ⟨hbl, hbu⟩ := toInt_bounds b
  have hc : cin.toNat ≤ 1 := cin.toNat_le
  rw [addWithCarry_r_eq_ofInt, wrapped_sign (by omega) (by omega), getLsbD_31_eq_neg, getLsbD_31_eq_neg]
  congr 1
  by_cases signs : a.toInt < 0 ↔ b.toInt < 0
  · have sum_sign : a.toInt + b.toInt + cin.toNat < 0 ↔ a.toInt < 0 := by omega
    rw [← decide_eq_decide.2 signs, decide_eq_decide.2 sum_sign]
    cases decide (a.toInt < 0) <;> simp
  · have in_range : signedOverflow (a.toInt + b.toInt + cin.toNat) = false := decide_eq_false (by omega)
    rw [in_range, beq_eq_false_iff_ne.2 fun h => signs (decide_eq_decide.1 h), Bool.false_and]

theorem addWithCarry_not_r (a b : Word) : (addWithCarry a (~~~b) true).r = a - b := by
  rw [addWithCarry_r, BitVec.sub_eq_add_neg, BitVec.neg_eq_not_add, BitVec.add_assoc]
  rfl

theorem addWithCarry_not_cf (a b : Word) :
    (addWithCarry a (~~~b) true).cf = FlagUpd.ofBool (decide (b.toNat ≤ a.toNat)) := by
  have := b.isLt
  rw [addWithCarry_cf, BitVec.toNat_not, Bool.toNat_true]
  congr 2
  rw [eq_iff_iff]
  omega

theorem toInt_not_eq (b : Word) : (~~~b).toInt = -1 - b.toInt := by
  have := b.isLt
  rw [BitVec.toInt_eq_toNat_cond, BitVec.toInt_eq_toNat_cond, BitVec.toNat_not]
  split <;> split <;> omega

theorem addWithCarry_not_vf (a b : Word) :
    (addWithCarry a (~~~b) true).vf = FlagUpd.ofBool (signedOverflow (a.toInt - b.toInt)) := by
  have hdiff : a.toInt + (~~~b).toInt + (true.toNat : Int) = a.toInt - b.toInt := by
    rw [toInt_not_eq, Bool.toNat_true]
    omega
  rw [addWithCarry_vf, hdiff]

/-! ## The condition codes (R150) -/

/-- An odd code below 1110 is the negation of the even one before it. -/
theorem condHolds_xor_one : ∀ (code : BitVec 4) (n z c v : Bool), code.toNat ≤ 0b1101 →
    condHolds (code ^^^ 1) n z c v = !condHolds code n z c v := by decide

/-- Settles O16: each code's entry is read off the table, and the pairs are checked for every value of the four flags. -/
theorem conditionTable : Obligations.ConditionTable := fun v =>
  ⟨rfl, rfl, rfl, rfl, rfl, rfl, rfl, rfl, rfl, rfl, rfl, rfl, rfl, rfl, rfl, rfl,
    fun code => condHolds_xor_one code (flagN v) (flagZ v) (flagC v) (flagV v)⟩

/-! ## CMP, and the conditions after it (R224) -/

/-- CPSR after CMP of `a` with `b`. -/
def cmpCpsr (cpsr a b : Word) : Word :=
  withNZCV cpsr ((a - b).getLsbD 31) (decide (a - b = 0)) (decide (b.toNat ≤ a.toNat)) (signedOverflow (a.toInt - b.toInt))

theorem dpCompare_aluCmp (a : Word) (o : ShifterOut) (s : State) :
    (dpCompare (aluCmp a o) s).settle = { s with cpsr := cmpCpsr s.cpsr a o.op2 } := by
  rw [dpCompare_settle, aluCmp, addWithCarry_not_r, addWithCarry_not_cf, addWithCarry_not_vf, FlagUpd.apply_ofBool,
    FlagUpd.apply_ofBool, cmpCpsr]

/-- CMP in its three formats: the four flags of the comparison and nothing else. -/
theorem exec_cmpI (c : Cond) (rn : RegIdx) (o : Operand2) (s : State) :
    exec (cmpI c rn o) s = .next (if condPassed c.code s.cpsr then
      { s with cpsr := cmpCpsr s.cpsr (s.read rn) (shifterOperand o s).op2 } else s) := by
  cases o with
  | imm rot imm8 => rw [cmpI, exec_cmpImm, dpCompare_aluCmp]
  | shImm amt ty rm => rw [cmpI, exec_cmpShImm, dpCompare_aluCmp]
  | shReg rs ty rm => rw [cmpI, exec_cmpShReg, dpCompare_aluCmp]

theorem flagZ_cmpCpsr (cpsr a b : Word) : flagZ (cmpCpsr cpsr a b) = decide (a = b) := by
  rw [cmpCpsr, flagZ_withNZCV]
  exact decide_eq_decide.2 sub_eq_zero

theorem flagC_cmpCpsr (cpsr a b : Word) : flagC (cmpCpsr cpsr a b) = decide (b.toNat ≤ a.toNat) := flagC_withNZCV ..

/-- N differs from V exactly when the true difference is negative, overflow or not. -/
theorem flagN_bne_flagV_cmpCpsr (cpsr a b : Word) :
    (flagN (cmpCpsr cpsr a b) != flagV (cmpCpsr cpsr a b)) = decide (a.toInt < b.toInt) := by
  obtain ⟨hal, hau⟩ := toInt_bounds a
  obtain ⟨hbl, hbu⟩ := toInt_bounds b
  have hsub : a - b = BitVec.ofInt 32 (a.toInt - b.toInt) := BitVec.eq_of_toInt_eq (by rw [BitVec.toInt_sub, BitVec.toInt_ofInt])
  rw [cmpCpsr, flagN_withNZCV, flagV_withNZCV, hsub, wrapped_sign (by omega) (by omega), Bool.bne_assoc, bne_self_eq_false,
    Bool.bne_false]
  exact decide_eq_decide.2 (by omega)

theorem flagN_beq_flagV_cmpCpsr (cpsr a b : Word) :
    (flagN (cmpCpsr cpsr a b) == flagV (cmpCpsr cpsr a b)) = decide (b.toInt ≤ a.toInt) := by
  rw [← Bool.not_not (_ == _), ← bne, flagN_bne_flagV_cmpCpsr, ← decide_not]
  exact decide_eq_decide.2 Int.not_lt

/-- Settles O17: R150 reads each condition from Z, C and the agreement of N with V, and CMP makes these equality, the unsigned
order and the signed order. -/
theorem conditionsAfterCompare : Obligations.ConditionsAfterCompare := by
  intro rn o s t ht a b
  obtain rfl : { s with cpsr := cmpCpsr s.cpsr a b } = t := by
    rw [exec_cmpI, condPassed_al, if_pos rfl] at ht
    exact Host.Outcome.next.inj ht
  have hz := flagZ_cmpCpsr s.cpsr a b
  have hc := flagC_cmpCpsr s.cpsr a b
  have hlt := flagN_bne_flagV_cmpCpsr s.cpsr a b
  have hge := flagN_beq_flagV_cmpCpsr s.cpsr a b
  obtain ⟨eq, -, cs, -, -, -, -, -, hi, -, ge, lt, gt, le, -⟩ := conditionTable (cmpCpsr s.cpsr a b)
  refine ⟨?_, ?_, ?_, ?_, ?_, ?_, ?_⟩
  · rw [Cond.code, eq, hz, decide_eq_true_iff]
  · rw [Cond.code, cs, hc, decide_eq_true_iff]
  · rw [Cond.code, hi, hc, hz, ← decide_not, Bool.and_eq_true, decide_eq_true_iff, decide_eq_true_iff, ← BitVec.toNat_inj]
    omega
  · rw [Cond.code, ge, hge, decide_eq_true_iff]
  · rw [Cond.code, gt, hz, hge, ← decide_not, Bool.and_eq_true, decide_eq_true_iff, decide_eq_true_iff, ← BitVec.toInt_inj]
    omega
  · rw [Cond.code, lt, hlt, decide_eq_true_iff]
  · rw [Cond.code, le, hz, hlt, Bool.or_eq_true, decide_eq_true_iff, decide_eq_true_iff, ← BitVec.toInt_inj]
    omega

/-! ## The phases of a step (R160 to R167) -/

theorem State.afterFetch_word (s : State) (w : Word) : s.afterFetch w .word = s.fetched w := rfl

theorem State.raise_eq_haltedBy (s : State) (f : Fault) : s.raise f = s.haltedBy f := rfl

theorem step_of_halted {s : State} (h : s.halted = true) : step s = .next s := if_pos h

theorem step_of_thumb {s : State} (hh : s.halted = false) (ht : flagT s.cpsr = true) : step s = stepThumb s := by
  rw [step, stepCore, hh, ht]
  rfl

theorem step_of_runArm {s : State} (h : s.RunArm) : step s = stepArm s := by
  obtain ⟨hh, ht⟩ := h
  rw [step, stepCore, hh, ht]
  rfl

/-- A step of a running core in ARM state whose fetch lies inside memory. -/
theorem step_of_fetchable {s : State} (h : s.Fetchable) :
    step s = decodeAndExecute (s.mem.wordAt s.pc) (s.fetched (s.mem.wordAt s.pc)) := by
  obtain ⟨harm, hr⟩ := h
  rw [step_of_runArm harm, stepArm, memRead_inRange (n := .word) hr, ← State.afterFetch_word]
  rfl

/-- A failed condition ends the step before decode (R164, R165). -/
theorem decodeAndExecute_failed {w : Word} {s : State} (h : condPassed (condF w) s.cpsr = false) :
    decodeAndExecute w s = .next s := if_neg (by rw [h]; decide)

/-- A decoded word runs, whether its condition passes or not: a meaning tests the condition again (log 7). -/
theorem decodeAndExecute_decoded {w : Word} {i : Instr} (s : State) (h : decodeWord w = .ok i) :
    decodeAndExecute w s = exec i s := by
  cases hc : condPassed (condF w) s.cpsr with
  | false => rw [decodeAndExecute_failed hc, exec_of_condition_failed i s (by rw [decodeWord_condCode h, hc])]
  | true => rw [decodeAndExecute, if_pos hc, h]

/-- A word that selects no row, its condition passed (R322). -/
theorem decodeAndExecute_undecoded {w : Word} {r : Reject} {s : State} (hc : condPassed (condF w) s.cpsr = true)
    (h : decodeWord w = .error r) : decodeAndExecute w s = .next (s.haltedBy (.decodeFailure w)) := by
  rw [decodeAndExecute, if_pos hc, h, ← State.raise_eq_haltedBy]

/-- Settles O9: the fetch succeeds, and a decoded word runs. -/
theorem stepRunsDecoded : Obligations.StepRunsDecoded := by
  intro s i hs hd
  rw [step_of_fetchable hs, decodeAndExecute_decoded _ hd]

/-- Settles O11: the fetch leaves the flags that the condition reads. -/
theorem failedConditionIsNoOp : Obligations.FailedConditionIsNoOp := by
  intro s hs hc
  rw [step_of_fetchable hs]
  exact decodeAndExecute_failed hc

/-- Settles O12: the fetch succeeds, and decode raises. -/
theorem undecodedWordHalts : Obligations.UndecodedWordHalts := by
  intro s r hs hc hd
  rw [step_of_fetchable hs]
  exact decodeAndExecute_undecoded hc hd

/-- Settles O13: the fetch itself raises. -/
theorem fetchOutOfRangeHalts : Obligations.FetchOutOfRangeHalts := by
  intro s hs hr
  rw [step_of_runArm hs, stepArm, memRead_outOfRange (n := .word) hr, ← State.raise_eq_haltedBy]

/-- Two bytes, little-endian (R63). -/
theorem Memory.bytesAt_two (m : Memory) (a : Nat) : m.bytesAt a 2 = (m.byte a).toNat + 256 * (m.byte (a + 1)).toNat := by
  rw [Memory.bytesAt, Memory.bytesAt, Memory.bytesAt, Nat.mul_zero, Nat.add_zero]

/-- Settles O14, by the range of the halfword fetch. -/
theorem thumbStepHalts : Obligations.ThumbStepHalts := by
  intro s hh ht
  rw [step_of_thumb hh ht, stepThumb]
  by_cases hr : s.pc.toNat + 2 ≤ s.mem.size
  · rw [if_pos hr, memRead_inRange (n := .half) hr, ← Memory.bytesAt_two]
    rfl
  · rw [if_neg hr, memRead_outOfRange (n := .half) (Nat.not_le.1 hr), ← State.raise_eq_haltedBy]

/-! ## The halt under the driver's calls (R167) -/

theorem State.driverReset_halted (s : State) (c : Config) : (s.driverReset c).halted = false := rfl

/-- A driver's write of CPSR can set the halt, with a value that names no mode (log 15), and never clears it. -/
theorem State.driverWriteCpsr_halted {s : State} (h : s.halted = true) (v : Word) : (s.driverWriteCpsr v).halted = true := by
  cases hm : modeOf (modeField v) with
  | none => rw [State.driverWriteCpsr_of_none hm]; rfl
  | some m => rw [State.driverWriteCpsr_of_some hm, State.switchMode_halted, h]

theorem driverCall_keeps_halted {call : DriverCall} {c c' : Config} {s t : State} (h : s.halted = true)
    (hd : driverCall call (.live c s) = .next (.live c' t)) (hr : call ≠ .reset) : t.halted = true := by
  obtain ⟨-, hcase⟩ := driverCall_cases hd
  rcases hcase with ⟨-, hs⟩ | ⟨hreset, -⟩ | ⟨a, n, v, m, -, -, rfl⟩ | ⟨i, v, -, rfl⟩ | ⟨v, -, rfl⟩ | ⟨v, -, rfl⟩ |
    ⟨slot, v, -, rfl⟩ | ⟨slot, v, -, rfl⟩ | ⟨v, -, rfl⟩
  · rw [step_of_halted h] at hs
    obtain rfl := Host.Outcome.next.inj hs
    exact h
  · exact absurd hreset hr
  · exact h
  · exact h
  · exact State.driverWriteCpsr_halted h v
  · exact h
  · rw [State.writeSpsrSlot_halted, h]
  · rw [State.writeBankSlot_halted, h]
  · exact h

/-- Settles O15, by the cases of a driver call. -/
theorem haltedIsAbsorbing : Obligations.HaltedIsAbsorbing := fun s c h =>
  ⟨step_of_halted h, s.driverReset_halted c, fun _ _ _ hd hr => driverCall_keeps_halted h hd hr⟩

end Sys2Proof.Machine
end

section
/-! PROOFS. The family `42_shifter_alu.md`: the rotation and the shifts, the shifter operand in its three formats, the adder, and the
flag write (R181 to R197). -/

namespace Sys2Proof.Machine

/-! ## The rotation and the shifts of a word -/

theorem ror32_eq_rotateRight (v : Word) (n : Nat) : ror32 v n = v.rotateRight n := by
  unfold ror32
  by_cases h : n % 32 = 0
  · rw [if_pos h, ← BitVec.rotateRight_mod_eq_rotateRight, h]
    simp [BitVec.rotateRight, BitVec.rotateRightAux]
  · rw [if_neg h]
    rfl

/-- Bit `i` of a rotation, the wrap of `i + n` past bit 31 taken apart (R181). -/
theorem getLsbD_ror32 (v : Word) (n : Nat) {i : Nat} (hi : i < 32) : (ror32 v n).getLsbD i = v.getLsbD ((i + n) % 32) := by
  rw [ror32_eq_rotateRight, BitVec.getLsbD_rotateRight]
  by_cases wraps : i < 32 - n % 32
  · rw [decide_eq_true wraps, cond_true]
    congr 1
    omega
  · rw [decide_eq_false wraps, cond_false, decide_eq_true hi, Bool.true_and]
    congr 1
    omega

theorem ror32_of_mod_eq_zero {v : Word} {n : Nat} (h : n % 32 = 0) : ror32 v n = v := if_pos h

theorem ror32_mod (v : Word) (n : Nat) : ror32 v (n % 32) = ror32 v n := by
  rw [ror32_eq_rotateRight, ror32_eq_rotateRight, BitVec.rotateRight_mod_eq_rotateRight]

theorem toNat_shiftLeft_word (v : Word) (n : Nat) : (v <<< n).toNat = v.toNat * 2 ^ n % 2 ^ 32 := by
  rw [BitVec.toNat_shiftLeft, Nat.shiftLeft_eq]

theorem toNat_shiftRight_word (v : Word) (n : Nat) : (v >>> n).toNat = v.toNat / 2 ^ n := by
  rw [BitVec.toNat_ushiftRight, Nat.shiftRight_eq_div_pow]

theorem toInt_sshiftRight_word (v : Word) (n : Nat) : (v.sshiftRight n).toInt = v.toInt / 2 ^ n := by
  rw [BitVec.toInt_sshiftRight, Int.shiftRight_eq_div_pow]
  norm_cast

/-- An arithmetic shift by 32 places or more leaves the sign in every bit (R187, R192). -/
theorem sshiftRight_eq_signFill (v : Word) {n : Nat} (hn : 32 ≤ n) : v.sshiftRight n = signFill v := by
  apply BitVec.eq_of_getLsbD_eq
  intro i hi
  have beyond : ¬ n + i < 32 := by omega
  rw [BitVec.getLsbD_sshiftRight, decide_eq_false (Nat.not_le.2 hi), Bool.not_false, Bool.true_and, if_neg beyond,
    BitVec.msb_eq_getLsbD_last, signFill]
  cases v.getLsbD 31 with
  | false => exact BitVec.getLsbD_zero.symm
  | true => exact (BitVec.getLsbD_allOnes.trans (decide_eq_true hi)).symm

/-- RRX puts C above the 31 bits it keeps (R188). -/
theorem toNat_rrx (v : Word) (c : Bool) : (rrx v c).op2.toNat = c.toNat * 2 ^ 31 + v.toNat / 2 := by
  have low : v.toNat / 2 < 2 ^ 31 := by omega
  have high : ((BitVec.ofBool c).setWidth 32 <<< 31).toNat = 2 ^ 31 * c.toNat := by cases c <;> rfl
  rw [rrx, BitVec.toNat_or, high, toNat_shiftRight_word, pow_one, ← Nat.two_pow_add_eq_or_of_lt low, Nat.mul_comm]

/-- Settles O18: the bits of the rotation, which are those of `v` itself when no place is left. -/
theorem rotateRightBits : Obligations.RotateRightBits := by
  intro v n i hi
  rw [Nat.add_mod_mod]
  exact ⟨getLsbD_ror32 v n hi, ror32_of_mod_eq_zero⟩

/-! ## The shifter operand (R183 to R193) -/

theorem getLsbD_rotatedImm (rot : BitVec 4) (imm8 : BitVec 8) {i : Nat} (hi : i < 32) :
    (rotatedImm rot imm8).getLsbD i = imm8.getLsbD ((i + 2 * rot.toNat) % 32) := by
  rw [rotatedImm, getLsbD_ror32 _ _ hi, BitVec.getLsbD_setWidth, decide_eq_true (Nat.mod_lt _ (by decide)), Bool.true_and]

/-- Settles O19: the operand is a rotation of the zero-extended immediate. -/
theorem immediateOperand : Obligations.ImmediateOperand := fun rot imm8 _ =>
  ⟨fun _ hi => getLsbD_rotatedImm rot imm8 hi, rfl⟩

/-- Settles O20: each kind is its shift by the amount, and amount 0 is the case of its own that R185 to R188 give it. -/
theorem immediateShifts : Obligations.ImmediateShifts := by
  intro amt rm s v n carry lsl lsr asr ror
  refine ⟨fun hn => ?_, fun hn => ?_⟩
  · have hlsl : lsl = ⟨v, .pass⟩ := if_pos hn
    have hlsr : lsr = ⟨0, carry 31⟩ := if_pos hn
    have hasr : asr = ⟨signFill v, carry 31⟩ := if_pos hn
    have hror : ror = rrx v (flagC s.cpsr) := if_pos hn
    rw [hlsl, hlsr, hasr, hror]
    exact ⟨rfl, rfl, rfl, rfl, rfl, rfl, toNat_rrx v _, rfl⟩
  · have hn0 : ¬ n = 0 := Nat.ne_of_gt hn
    have hlsl : lsl = lslBy v n := if_neg hn0
    have hlsr : lsr = lsrBy v n := if_neg hn0
    have hasr : asr = asrBy v n := if_neg hn0
    have hror : ror = rorBy v n := if_neg hn0
    rw [hlsl, hlsr, hasr, hror]
    exact ⟨toNat_shiftLeft_word v n, rfl, toNat_shiftRight_word v n, rfl, toInt_sshiftRight_word v n, rfl,
      fun _ hi => getLsbD_ror32 v n hi, rfl⟩

/-! A register amount from 1 on: one shift by all the places, whatever branch the amount falls in (R190 to R193). -/

theorem shiftByReg_lsl (v : Word) {n : Nat} (hn : 1 ≤ n) : shiftByReg .lsl v n =
    ⟨v <<< n, if n ≤ 32 then FlagUpd.ofBool (v.getLsbD (32 - n)) else .unset⟩ := by
  rw [shiftByReg, if_neg (Nat.ne_of_gt hn)]
  rcases Nat.lt_trichotomy n 32 with h | rfl | h
  · simp only [if_pos h, if_pos h.le, lslBy]
  · simp
  · simp only [if_neg h.not_gt, if_neg (Nat.ne_of_gt h), if_neg h.not_ge, BitVec.shiftLeft_eq_zero h.le]
    rfl

theorem shiftByReg_lsr (v : Word) {n : Nat} (hn : 1 ≤ n) : shiftByReg .lsr v n =
    ⟨v >>> n, if n ≤ 32 then FlagUpd.ofBool (v.getLsbD (n - 1)) else .unset⟩ := by
  rw [shiftByReg, if_neg (Nat.ne_of_gt hn)]
  rcases Nat.lt_trichotomy n 32 with h | rfl | h
  · simp only [if_pos h, if_pos h.le, lsrBy]
  · exact congrArg (ShifterOut.mk · _) (BitVec.ushiftRight_eq_zero le_rfl).symm
  · simp only [if_neg h.not_gt, if_neg (Nat.ne_of_gt h), if_neg h.not_ge, BitVec.ushiftRight_eq_zero h.le]
    rfl

theorem shiftByReg_asr (v : Word) {n : Nat} (hn : 1 ≤ n) : shiftByReg .asr v n =
    ⟨v.sshiftRight n, FlagUpd.ofBool (v.getLsbD (min n 32 - 1))⟩ := by
  rw [shiftByReg, if_neg (Nat.ne_of_gt hn)]
  by_cases h : n < 32
  · simp only [if_pos h, Nat.min_eq_left h.le, asrBy]
  · have h32 : 32 ≤ n := Nat.not_lt.1 h
    simp only [if_neg h, Nat.min_eq_right h32, sshiftRight_eq_signFill v h32]

theorem shiftByReg_ror (v : Word) {n : Nat} (hn : 1 ≤ n) : shiftByReg .ror v n =
    ⟨ror32 v n, FlagUpd.ofBool (v.getLsbD ((n + 31) % 32))⟩ := by
  rw [shiftByReg, if_neg (Nat.ne_of_gt hn)]
  by_cases h : n % 32 = 0
  · have last : (n + 31) % 32 = 31 := by omega
    simp only [if_pos h, ror32_of_mod_eq_zero h, last]
  · have before : (n + 31) % 32 = n % 32 - 1 := by omega
    simp only [if_neg h, rorBy, ror32_mod, before]

/-- Settles O21: amount 0 is no shift, and every other amount is one shift of its kind. -/
theorem registerShifts : Obligations.RegisterShifts := by
  intro rs rm s v n carry lsl lsr asr ror
  refine ⟨fun hn _ => if_pos hn, fun hn => ?_⟩
  have hlsl : lsl = _ := shiftByReg_lsl v hn
  have hlsr : lsr = _ := shiftByReg_lsr v hn
  have hasr : asr = _ := shiftByReg_asr v hn
  have hror : ror = _ := shiftByReg_ror v hn
  rw [hlsl, hlsr, hasr, hror]
  exact ⟨toNat_shiftLeft_word v n, rfl, toNat_shiftRight_word v n, rfl, toInt_sshiftRight_word v n, rfl,
    fun _ hi => getLsbD_ror32 v n hi, rfl⟩

/-! ## The adder (R194) -/

theorem FlagUpd.ofBool_eq_set {b : Bool} : FlagUpd.ofBool b = .set ↔ b = true := by cases b <;> decide

theorem FlagUpd.ofBool_eq_ite {b : Bool} {p : Prop} [Decidable p] (h : b = true ↔ p) :
    FlagUpd.ofBool b = if p then .set else .unset := if_congr h rfl rfl

/-- Settles O22: the carry and the bit test are the adder's own, and the signed reading is the one the adder's overflow has. -/
theorem adderCarryAndOverflow : Obligations.AdderCarryAndOverflow := by
  intro a b cin u o
  refine ⟨BitVec.toNat_ofNat u 32, FlagUpd.ofBool_eq_ite decide_eq_true_iff, FlagUpd.ofBool_eq_ite ?_, ?_⟩
  · rw [Bool.and_eq_true, beq_iff_eq, bne_iff_ne]
    rfl
  · rw [addWithCarry_vf, FlagUpd.ofBool_eq_set, signedOverflow, decide_eq_true_iff]

/-! ## The flag write (R197) -/

/-- Settles O28: N, Z, C and V are the four bits written, and each of the four writes keeps every other bit. -/
theorem flagWriteBits : Obligations.FlagWriteBits := by
  intro v n z c o i
  by_cases h31 : i = 31
  · rw [if_pos h31, h31]
    exact flagN_withNZCV v n z c o
  by_cases h30 : i = 30
  · rw [if_neg h31, if_pos h30, h30]
    exact flagZ_withNZCV v n z c o
  by_cases h29 : i = 29
  · rw [if_neg h31, if_neg h30, if_pos h29, h29]
    exact flagC_withNZCV v n z c o
  by_cases h28 : i = 28
  · rw [if_neg h31, if_neg h30, if_neg h29, if_pos h28, h28]
    exact flagV_withNZCV v n z c o
  · rw [if_neg h31, if_neg h30, if_neg h29, if_neg h28, withNZCV, getLsbD_setBit _ (by decide), getLsbD_setBit _ (by decide),
      getLsbD_setBit _ (by decide), getLsbD_setBit _ (by decide), if_neg h28, if_neg h29, if_neg h30, if_neg h31]

end Sys2Proof.Machine
end

section
/-! PROOFS. Data processing over the three operand formats at once: what each of the sixteen instructions answers, the frame of all
forty-eight, and the inverse operations (R197, R201, R210 to R213). -/

namespace Sys2Proof.Machine

section
variable (c : Cond) (sf : Bool) (rn rd : RegIdx) (o : Operand2) (s : State)

/-! ## The sixteen instructions, each over its three operand forms -/

theorem exec_andI : exec (andI c sf rn rd o) s = .next (if condPassed c.code s.cpsr then
    (dpWrite sf rd (aluAnd (s.read rn) (shifterOperand o s)) s).settle else s) := by
  cases o; exacts [exec_andImm .., exec_andShImm .., exec_andShReg ..]

theorem exec_eorI : exec (eorI c sf rn rd o) s = .next (if condPassed c.code s.cpsr then
    (dpWrite sf rd (aluEor (s.read rn) (shifterOperand o s)) s).settle else s) := by
  cases o; exacts [exec_eorImm .., exec_eorShImm .., exec_eorShReg ..]

theorem exec_subI : exec (subI c sf rn rd o) s = .next (if condPassed c.code s.cpsr then
    (dpWrite sf rd (aluSub (s.read rn) (shifterOperand o s)) s).settle else s) := by
  cases o; exacts [exec_subImm .., exec_subShImm .., exec_subShReg ..]

theorem exec_rsbI : exec (rsbI c sf rn rd o) s = .next (if condPassed c.code s.cpsr then
    (dpWrite sf rd (aluRsb (s.read rn) (shifterOperand o s)) s).settle else s) := by
  cases o; exacts [exec_rsbImm .., exec_rsbShImm .., exec_rsbShReg ..]

theorem exec_addI : exec (addI c sf rn rd o) s = .next (if condPassed c.code s.cpsr then
    (dpWrite sf rd (aluAdd (s.read rn) (shifterOperand o s)) s).settle else s) := by
  cases o; exacts [exec_addImm .., exec_addShImm .., exec_addShReg ..]

theorem exec_adcI : exec (adcI c sf rn rd o) s = .next (if condPassed c.code s.cpsr then
    (dpWrite sf rd (aluAdc (s.read rn) (shifterOperand o s) (flagC s.cpsr)) s).settle else s) := by
  cases o; exacts [exec_adcImm .., exec_adcShImm .., exec_adcShReg ..]

theorem exec_sbcI : exec (sbcI c sf rn rd o) s = .next (if condPassed c.code s.cpsr then
    (dpWrite sf rd (aluSbc (s.read rn) (shifterOperand o s) (flagC s.cpsr)) s).settle else s) := by
  cases o; exacts [exec_sbcImm .., exec_sbcShImm .., exec_sbcShReg ..]

theorem exec_rscI : exec (rscI c sf rn rd o) s = .next (if condPassed c.code s.cpsr then
    (dpWrite sf rd (aluRsc (s.read rn) (shifterOperand o s) (flagC s.cpsr)) s).settle else s) := by
  cases o; exacts [exec_rscImm .., exec_rscShImm .., exec_rscShReg ..]

theorem exec_orrI : exec (orrI c sf rn rd o) s = .next (if condPassed c.code s.cpsr then
    (dpWrite sf rd (aluOrr (s.read rn) (shifterOperand o s)) s).settle else s) := by
  cases o; exacts [exec_orrImm .., exec_orrShImm .., exec_orrShReg ..]

theorem exec_movI : exec (movI c sf rd o) s = .next (if condPassed c.code s.cpsr then
    (dpWrite sf rd (aluMov (shifterOperand o s)) s).settle else s) := by
  cases o; exacts [exec_movImm .., exec_movShImm .., exec_movShReg ..]

theorem exec_bicI : exec (bicI c sf rn rd o) s = .next (if condPassed c.code s.cpsr then
    (dpWrite sf rd (aluBic (s.read rn) (shifterOperand o s)) s).settle else s) := by
  cases o; exacts [exec_bicImm .., exec_bicShImm .., exec_bicShReg ..]

theorem exec_mvnI : exec (mvnI c sf rd o) s = .next (if condPassed c.code s.cpsr then
    (dpWrite sf rd (aluMvn (shifterOperand o s)) s).settle else s) := by
  cases o; exacts [exec_mvnImm .., exec_mvnShImm .., exec_mvnShReg ..]

theorem exec_tstI : exec (tstI c rn o) s = .next (if condPassed c.code s.cpsr then
    (dpCompare (aluTst (s.read rn) (shifterOperand o s)) s).settle else s) := by
  cases o; exacts [exec_tstImm .., exec_tstShImm .., exec_tstShReg ..]

theorem exec_teqI : exec (teqI c rn o) s = .next (if condPassed c.code s.cpsr then
    (dpCompare (aluTeq (s.read rn) (shifterOperand o s)) s).settle else s) := by
  cases o; exacts [exec_teqImm .., exec_teqShImm .., exec_teqShReg ..]

/-- `exec_cmpI` with the write half of the comparison not yet worked out, as for the other three. -/
theorem exec_cmpI_gate : exec (cmpI c rn o) s = .next (if condPassed c.code s.cpsr then
    (dpCompare (aluCmp (s.read rn) (shifterOperand o s)) s).settle else s) := by
  rw [exec_cmpI, dpCompare_aluCmp]

theorem exec_cmnI : exec (cmnI c rn o) s = .next (if condPassed c.code s.cpsr then
    (dpCompare (aluCmn (s.read rn) (shifterOperand o s)) s).settle else s) := by
  cases o; exacts [exec_cmnImm .., exec_cmnShImm .., exec_cmnShReg ..]

end

/-! ## All forty-eight at once -/

/-- A writer runs the write half on some result of its opcode's function (R210). -/
theorem exec_dpWriter {i : Instr} {c : Cond} {sf : Bool} {rn rd : RegIdx} {o : Operand2} (h : i ∈ dpWriters c sf rn rd o)
    (s : State) : ∃ out, exec i s = .next (if condPassed c.code s.cpsr then (dpWrite sf rd out s).settle else s) := by
  simp only [dpWriters, List.mem_cons, List.not_mem_nil, or_false] at h
  rcases h with rfl | rfl | rfl | rfl | rfl | rfl | rfl | rfl | rfl | rfl | rfl | rfl
  exacts [⟨_, exec_andI ..⟩, ⟨_, exec_eorI ..⟩, ⟨_, exec_subI ..⟩, ⟨_, exec_rsbI ..⟩, ⟨_, exec_addI ..⟩, ⟨_, exec_adcI ..⟩,
    ⟨_, exec_sbcI ..⟩, ⟨_, exec_rscI ..⟩, ⟨_, exec_orrI ..⟩, ⟨_, exec_movI ..⟩, ⟨_, exec_bicI ..⟩, ⟨_, exec_mvnI ..⟩]

/-- A comparison writes flags only (R213). -/
theorem exec_dpCompare {i : Instr} {c : Cond} {rn : RegIdx} {o : Operand2} (h : i ∈ dpCompares c rn o) (s : State) :
    ∃ out, exec i s = .next (if condPassed c.code s.cpsr then (dpCompare out s).settle else s) := by
  simp only [dpCompares, List.mem_cons, List.not_mem_nil, or_false] at h
  rcases h with rfl | rfl | rfl | rfl
  exacts [⟨_, exec_tstI ..⟩, ⟨_, exec_teqI ..⟩, ⟨_, exec_cmpI_gate ..⟩, ⟨_, exec_cmnI ..⟩]

/-- A writer's opcode is none of 8 to 11 (R113). -/
theorem exists_dpInstr_of_mem_dpWriters {i : Instr} {c : Cond} {sf : Bool} {rn rd : RegIdx} {o : Operand2}
    (h : i ∈ dpWriters c sf rn rd o) : ∃ op, i = dpInstr c op sf rn rd o ∧ ¬ (8 ≤ op.toNat ∧ op.toNat < 12) := by
  simp only [dpWriters, List.mem_cons, List.not_mem_nil, or_false] at h
  rcases h with rfl | rfl | rfl | rfl | rfl | rfl | rfl | rfl | rfl | rfl | rfl | rfl
  exacts [⟨0, rfl, by decide⟩, ⟨1, rfl, by decide⟩, ⟨2, rfl, by decide⟩, ⟨3, rfl, by decide⟩, ⟨4, rfl, by decide⟩,
    ⟨5, rfl, by decide⟩, ⟨6, rfl, by decide⟩, ⟨7, rfl, by decide⟩, ⟨12, rfl, by decide⟩, ⟨13, rfl, by decide⟩,
    ⟨14, rfl, by decide⟩, ⟨15, rfl, by decide⟩]

/-- A comparison's opcode is one of 8 to 11, whatever its S and Rd would be (R113, R213). -/
theorem exists_dpInstr_of_mem_dpCompares {i : Instr} {c : Cond} {rn : RegIdx} {o : Operand2} (h : i ∈ dpCompares c rn o)
    (sf : Bool) (rd : RegIdx) : ∃ op, i = dpInstr c op sf rn rd o ∧ 8 ≤ op.toNat ∧ op.toNat < 12 := by
  simp only [dpCompares, List.mem_cons, List.not_mem_nil, or_false] at h
  rcases h with rfl | rfl | rfl | rfl
  exacts [⟨8, rfl, by decide⟩, ⟨9, rfl, by decide⟩, ⟨10, rfl, by decide⟩, ⟨11, rfl, by decide⟩]

/-- No instruction is both: the row of the opcode table tells the opcode. -/
theorem not_mem_dpCompares_of_mem_dpWriters {i : Instr} {c : Cond} {sf : Bool} {rn rd : RegIdx} {o : Operand2}
    (h : i ∈ dpWriters c sf rn rd o) : i ∉ dpCompares c rn o := fun hc => by
  obtain ⟨op, rfl, hop⟩ := exists_dpInstr_of_mem_dpWriters h
  obtain ⟨op', same, hop'⟩ := exists_dpInstr_of_mem_dpCompares hc sf rd
  have rows := congrArg Instr.rowIndex same
  rw [dpInstr_rowIndex, dpInstr_rowIndex] at rows
  omega

/-! ## The frame (R197, R210, R211, R213) -/

/-- What data processing keeps, the mode return apart: the registers that `kept` names, CPSR but for the condition flags, which
change only when S = 1, and every other field. -/
structure DpFrame (sf : Bool) (kept : RegIdx → Prop) (s t : State) : Prop where
  read : ∀ k, kept k → t.read k = s.read k
  cpsr : ∀ k, k < 28 ∨ sf = false → t.cpsr.getLsbD k = s.cpsr.getLsbD k
  rest : t = { s with regs := t.regs, cpsr := t.cpsr }

theorem DpFrame.refl (sf : Bool) (kept : RegIdx → Prop) (s : State) : DpFrame sf kept s s :=
  ⟨fun _ _ => rfl, fun _ _ => rfl, rfl⟩

/-- A flag write keeps every register and the bits of CPSR below the flags. -/
theorem DpFrame.setFlags {sf : Bool} {kept : RegIdx → Prop} {s t : State} (h : DpFrame sf kept s t) (hs : sf = true)
    (out : AluOut) : DpFrame sf kept s (t.setFlags out) where
  read := h.read
  cpsr k hk := by
    have low : k < 28 := hk.resolve_right (by simp [hs])
    exact (getLsbD_withNZCV_low _ _ _ _ _ low).trans (h.cpsr k hk)
  rest := by
    show { t with cpsr := (t.setFlags out).cpsr } = _
    conv_lhs => rw [h.rest]
    rfl

theorem DpFrame.write (sf : Bool) (s : State) (rd : RegIdx) (v : Word) : DpFrame sf (· ≠ rd) s (s.write rd v) :=
  ⟨fun _ hk => State.read_write_ne s v hk.symm, fun _ _ => rfl, rfl⟩

theorem DpFrame.dpWrite {sf : Bool} {rd : RegIdx} (h : sf = true → rd ≠ 15) (out : AluOut) (s : State) :
    DpFrame sf (· ≠ rd) s (dpWrite sf rd out s).settle := by
  cases sf with
  | false => exact .write false s rd out.r
  | true =>
    have no_return : (rd == pcIdx) = false := beq_eq_false_iff_ne.2 (h rfl)
    rw [Machine.dpWrite, no_return]
    exact (DpFrame.write true s rd out.r).setFlags rfl out

theorem DpFrame.dpCompare (kept : RegIdx → Prop) (out : AluOut) (s : State) : DpFrame true kept s (dpCompare out s).settle :=
  (DpFrame.refl true kept s).setFlags rfl out

/-- A failed condition keeps everything, so the frame of a body is the frame of the instruction (R165). -/
theorem DpFrame.of_gate {sf : Bool} {kept : RegIdx → Prop} {i : Instr} {s t u : State} {passed : Bool}
    (he : exec i s = .next (if passed then u else s)) (h : DpFrame sf kept s u) (ht : exec i s = .next t) :
    DpFrame sf kept s t := by
  obtain rfl := Host.Outcome.next.inj (he.symm.trans ht)
  split
  · exact h
  · exact .refl sf kept s

/-- Settles O29: a writer's write half writes Rd and at most the flags, a comparison's the flags alone, and no instruction is
both. -/
theorem dataProcessingFrame : Obligations.DataProcessingFrame := by
  rintro c sf rn rd o i s t (⟨hw, h15⟩ | ⟨hc, rfl⟩) ht
  · obtain ⟨out, he⟩ := exec_dpWriter hw s
    obtain ⟨hread, hcpsr, hrest⟩ := DpFrame.of_gate he (.dpWrite h15 out s) ht
    exact ⟨fun k hk => hread k (hk.resolve_right (not_mem_dpCompares_of_mem_dpWriters hw)), hcpsr, fun a => by rw [hrest], hrest⟩
  · obtain ⟨out, he⟩ := exec_dpCompare hc s
    obtain ⟨hread, hcpsr, hrest⟩ := DpFrame.of_gate he (.dpCompare (fun _ => True) out s) ht
    exact ⟨fun k _ => hread k trivial, hcpsr, fun a => by rw [hrest], hrest⟩

/-! ## Inverse operations (R201) -/

theorem State.write_write (s : State) (i : RegIdx) (v w : Word) : (s.write i v).write i w = s.write i w := by
  simp only [State.write, Vector.set_set]

theorem State.write_read (s : State) (i : RegIdx) : s.write i (s.read i) = s := by
  simp only [State.write, State.read, Vector.set_getElem_self]

/-- The instruction replaces Rd by `f` of what it holds and changes nothing else. -/
def MapsReg (i : Instr) (rd : RegIdx) (f : Word → Word) : Prop :=
  ∀ s, exec i s = .next (s.write rd (f (s.read rd)))

theorem MapsReg.undo {i j : Instr} {rd : RegIdx} {f g : Word → Word} (hi : MapsReg i rd f) (hj : MapsReg j rd g)
    (hgf : ∀ x, g (f x) = x) {s t u : State} (ht : exec i s = .next t) (hu : exec j t = .next u) : u = s := by
  obtain rfl := Host.Outcome.next.inj ((hi s).symm.trans ht)
  obtain rfl := Host.Outcome.next.inj ((hj _).symm.trans hu)
  rw [State.read_write_self, hgf, State.write_write, State.write_read]

/-- A writer with S = 0 that always runs maps Rd when its result is a function of Rd. -/
theorem MapsReg.of_dpWrite {i : Instr} {rd : RegIdx} {f : Word → Word} {out : State → AluOut}
    (he : ∀ s, exec i s = .next (if condPassed Cond.al.code s.cpsr then (dpWrite false rd (out s) s).settle else s))
    (hf : ∀ s, (out s).r = f (s.read rd)) : MapsReg i rd f := fun s => by
  rw [he, condPassed_al, if_pos rfl, ← hf]
  rfl

section
variable (rd : RegIdx) (rot : BitVec 4) (imm8 : BitVec 8)

theorem mapsReg_addI : MapsReg (addI .al false rd rd (.imm rot imm8)) rd (· + rotatedImm rot imm8) :=
  .of_dpWrite (exec_addI _ _ _ _ _) fun _ => (addWithCarry_r ..).trans (BitVec.add_zero _)

theorem mapsReg_subI : MapsReg (subI .al false rd rd (.imm rot imm8)) rd (· - rotatedImm rot imm8) :=
  .of_dpWrite (exec_subI _ _ _ _ _) fun _ => addWithCarry_not_r ..

theorem mapsReg_rsbI : MapsReg (rsbI .al false rd rd (.imm rot imm8)) rd (rotatedImm rot imm8 - ·) :=
  .of_dpWrite (exec_rsbI _ _ _ _ _) fun _ => addWithCarry_not_r ..

theorem mapsReg_eorI : MapsReg (eorI .al false rd rd (.imm rot imm8)) rd (· ^^^ rotatedImm rot imm8) :=
  .of_dpWrite (exec_eorI _ _ _ _ _) fun _ => rfl

/-- MVN of the register itself: LSL by 0 is no shift (R185). -/
theorem mapsReg_mvnI : MapsReg (mvnI .al false rd (.shImm 0 .lsl rd)) rd (~~~·) :=
  .of_dpWrite (exec_mvnI _ _ _ _) fun _ => rfl

end

/-- Settles O31: each of the four pairs is two maps of one register, the second the inverse of the first modulo 2^32. -/
theorem inverseOperations : Obligations.InverseOperations := fun rd rot imm8 _ _ _ _ =>
  ⟨(mapsReg_addI rd rot imm8).undo (mapsReg_subI rd rot imm8) fun x => BitVec.add_sub_cancel x _,
    (mapsReg_eorI rd rot imm8).undo (mapsReg_eorI rd rot imm8) fun x => by rw [BitVec.xor_assoc, BitVec.xor_self, BitVec.xor_zero],
    (mapsReg_rsbI rd rot imm8).undo (mapsReg_rsbI rd rot imm8) fun x => sub_sub_cancel _ x,
    (mapsReg_mvnI rd).undo (mapsReg_mvnI rd) fun _ => BitVec.not_not⟩

end Sys2Proof.Machine
end

section
/-! PROOFS. The family `43_data_processing.md`: the result and the flags of the sixteen instructions in their three formats, and the
mode return (R210 to R229). -/

namespace Sys2Proof.Machine

/-! ## The adder without a carry-in, and with the inverse of a borrow (R194, R196) -/

theorem addWithCarry_false_r (a b : Word) : (addWithCarry a b false).r = a + b :=
  (addWithCarry_r a b false).trans (BitVec.add_zero _)

theorem addWithCarry_false_cf (a b : Word) :
    (addWithCarry a b false).cf = FlagUpd.ofBool (decide (2 ^ 32 ≤ a.toNat + b.toNat)) := addWithCarry_cf a b false

theorem addWithCarry_false_vf (a b : Word) :
    (addWithCarry a b false).vf = FlagUpd.ofBool (signedOverflow (a.toInt + b.toInt)) := by
  rw [addWithCarry_vf, Bool.toNat_false, Int.natCast_zero, Int.add_zero]

/-- The adder on the complement of `y` subtracts `y` and the inverse of the carry-in: one more of both is all ones (R196). -/
theorem addWithCarry_borrow_r (x y : Word) (cin : Bool) :
    (addWithCarry x (~~~y) cin).r = x - y - BitVec.ofNat 32 (!cin).toNat := by
  cases cin with
  | true => exact (addWithCarry_not_r x y).trans (BitVec.sub_zero _).symm
  | false =>
    have complement : ~~~y = -y - 1#32 := by rw [BitVec.neg_eq_not_add, BitVec.add_sub_cancel]
    rw [addWithCarry_false_r, complement, ← add_sub_assoc, ← sub_eq_add_neg]
    rfl

theorem addWithCarry_borrow_cf (x y : Word) (cin : Bool) :
    (addWithCarry x (~~~y) cin).cf = FlagUpd.ofBool (decide (y.toNat + (!cin).toNat ≤ x.toNat)) := by
  have hy := y.isLt
  have borrow : (!cin).toNat + cin.toNat = 1 := by cases cin <;> rfl
  rw [addWithCarry_cf, BitVec.toNat_not]
  congr 2
  rw [eq_iff_iff]
  omega

theorem addWithCarry_borrow_vf (x y : Word) (cin : Bool) :
    (addWithCarry x (~~~y) cin).vf = FlagUpd.ofBool (signedOverflow (x.toInt - y.toInt - (!cin).toNat)) := by
  have borrow : (!cin).toNat + cin.toNat = 1 := by cases cin <;> rfl
  have difference : x.toInt + (~~~y).toInt + cin.toNat = x.toInt - y.toInt - (!cin).toNat := by
    rw [toInt_not_eq]
    omega
  rw [addWithCarry_vf, difference]

/-! ## The write half on the result of each kind of function (R198, R210) -/

section
variable (sf : Bool) (rd : RegIdx) (s : State)

theorem dpWrite_logical (r : Word) (sco : FlagUpd) :
    (dpWrite sf rd (logical r sco) s).settle =
      dpResult s sf rd r (r.getLsbD 31) (decide (r = 0)) (carryAfter sco (flagC s.cpsr)) (flagV s.cpsr) := by
  rw [dpWrite_settle, carryAfter_eq]
  rfl

theorem dpWrite_addWithCarry (a b : Word) (cin : Bool) :
    (dpWrite sf rd (addWithCarry a b cin) s).settle =
      dpResult s sf rd (a + b + BitVec.ofNat 32 cin.toNat) ((a + b + BitVec.ofNat 32 cin.toNat).getLsbD 31)
        (decide (a + b + BitVec.ofNat 32 cin.toNat = 0)) (decide (2 ^ 32 ≤ a.toNat + b.toNat + cin.toNat))
        (signedOverflow (a.toInt + b.toInt + cin.toNat)) := by
  rw [dpWrite_settle, addWithCarry_r, addWithCarry_cf, addWithCarry_vf, FlagUpd.apply_ofBool, FlagUpd.apply_ofBool]

theorem dpWrite_subtract (x y : Word) :
    (dpWrite sf rd (addWithCarry x (~~~y) true) s).settle =
      dpResult s sf rd (x - y) ((x - y).getLsbD 31) (decide (x = y)) (decide (y.toNat ≤ x.toNat))
        (signedOverflow (x.toInt - y.toInt)) := by
  have zero : decide (x - y = 0) = decide (x = y) := decide_eq_decide.2 sub_eq_zero
  rw [dpWrite_settle, addWithCarry_not_r, addWithCarry_not_cf, addWithCarry_not_vf, FlagUpd.apply_ofBool,
    FlagUpd.apply_ofBool, zero]

theorem dpWrite_subtractBorrow (x y : Word) (cin : Bool) :
    (dpWrite sf rd (addWithCarry x (~~~y) cin) s).settle =
      dpResult s sf rd (x - y - BitVec.ofNat 32 (!cin).toNat) ((x - y - BitVec.ofNat 32 (!cin).toNat).getLsbD 31)
        (decide (x - y - BitVec.ofNat 32 (!cin).toNat = 0)) (decide (y.toNat + (!cin).toNat ≤ x.toNat))
        (signedOverflow (x.toInt - y.toInt - (!cin).toNat)) := by
  rw [dpWrite_settle, addWithCarry_borrow_r, addWithCarry_borrow_cf, addWithCarry_borrow_vf, FlagUpd.apply_ofBool,
    FlagUpd.apply_ofBool]

theorem dpCompare_logical (r : Word) (sco : FlagUpd) :
    (dpCompare (logical r sco) s).settle = { s with
      cpsr := withNZCV s.cpsr (r.getLsbD 31) (decide (r = 0)) (carryAfter sco (flagC s.cpsr)) (flagV s.cpsr) } := by
  rw [dpCompare_settle, carryAfter_eq]
  rfl

theorem dpCompare_aluCmn (a : Word) (o : ShifterOut) :
    (dpCompare (aluCmn a o) s).settle = { s with
      cpsr := withNZCV s.cpsr ((a + o.op2).getLsbD 31) (decide (a + o.op2 = 0)) (decide (2 ^ 32 ≤ a.toNat + o.op2.toNat))
        (signedOverflow (a.toInt + o.op2.toInt)) } := by
  rw [dpCompare_settle, aluCmn, addWithCarry_false_r, addWithCarry_false_cf, addWithCarry_false_vf, FlagUpd.apply_ofBool,
    FlagUpd.apply_ofBool]

end

/-! ## Results and flags (R214 to R229) -/

/-- Settles O23: the six functions are `logical` of their results. -/
theorem logicalResults : Obligations.LogicalResults := by
  intro c sf rn rd o s a b cy out
  refine ⟨?_, ?_, ?_, ?_, ?_, ?_⟩
  · rw [exec_andI, aluAnd, dpWrite_logical]
  · rw [exec_eorI, aluEor, dpWrite_logical]
  · rw [exec_orrI, aluOrr, dpWrite_logical]
  · rw [exec_bicI, aluBic, dpWrite_logical]
  · rw [exec_movI, aluMov, dpWrite_logical]
  · rw [exec_mvnI, aluMvn, dpWrite_logical]

/-- Settles O24: both are the adder, with carry-in 0 and with C. -/
theorem addResults : Obligations.AddResults := by
  intro c sf rn rd o s a b out
  refine ⟨?_, ?_⟩
  · rw [exec_addI, aluAdd, dpWrite_addWithCarry]
  · rw [exec_adcI, aluAdc, dpWrite_addWithCarry]

/-- Settles O25: both are the adder on the complement of what is subtracted, with carry-in 1. -/
theorem subtractResults : Obligations.SubtractResults := by
  intro c sf rn rd o s a b out
  refine ⟨?_, ?_⟩
  · rw [exec_subI, aluSub, dpWrite_subtract]
  · rw [exec_rsbI, aluRsb, dpWrite_subtract]

/-- Settles O26: both are the adder on the complement of what is subtracted, with C as the carry-in. -/
theorem subtractCarryResults : Obligations.SubtractCarryResults := by
  intro c sf rn rd o s a b borrow out
  refine ⟨?_, ?_⟩
  · rw [exec_sbcI, aluSbc, dpWrite_subtractBorrow]
  · rw [exec_rscI, aluRsc, dpWrite_subtractBorrow]

/-- Settles O27: TST and TEQ are logical, CMP subtracts and CMN adds; each writes its flags alone. -/
theorem compareResults : Obligations.CompareResults := by
  intro c rn o s a b cy out
  refine ⟨?_, ?_, exec_cmpI c rn o s, ?_⟩
  · rw [exec_tstI, aluTst, dpCompare_logical]
  · rw [exec_teqI, aluTeq, dpCompare_logical]
  · rw [exec_cmnI, dpCompare_aluCmn]

/-! ## The mode return (R212) -/

/-- Where the condition passes, the first instruction runs the write half with S = 1 and the second with S = 0, both with
destination `rd` and on one result. -/
def WriteOneResult (rd : RegIdx) (s : State) (i j : Instr) : Prop :=
  ∃ out, exec i s = .next (dpWrite true rd out s).settle ∧ exec j s = .next (dpWrite false rd out s).settle

/-- A writer computes the same result whatever its S bit (R210). -/
theorem dpWriters_writeOneResult {c : Cond} {s : State} (hc : condPassed c.code s.cpsr = true) (rn rd : RegIdx) (o : Operand2) :
    List.Forall₂ (WriteOneResult rd s) (dpWriters c true rn rd o) (dpWriters c false rn rd o) := by
  have pair {f : Bool → Instr} {out : AluOut} (he : ∀ sf, exec (f sf) s =
      .next (if condPassed c.code s.cpsr then (dpWrite sf rd out s).settle else s)) : WriteOneResult rd s (f true) (f false) :=
    ⟨out, by rw [he, if_pos hc], by rw [he, if_pos hc]⟩
  exact .cons (pair (exec_andI c · rn rd o s)) <| .cons (pair (exec_eorI c · rn rd o s)) <|
    .cons (pair (exec_subI c · rn rd o s)) <| .cons (pair (exec_rsbI c · rn rd o s)) <|
    .cons (pair (exec_addI c · rn rd o s)) <| .cons (pair (exec_adcI c · rn rd o s)) <|
    .cons (pair (exec_sbcI c · rn rd o s)) <| .cons (pair (exec_rscI c · rn rd o s)) <|
    .cons (pair (exec_orrI c · rn rd o s)) <| .cons (pair (exec_movI c · rd o s)) <|
    .cons (pair (exec_bicI c · rn rd o s)) <| .cons (pair (exec_mvnI c · rd o s)) .nil

theorem WriteOneResult.of_getElem? {c : Cond} {rn rd : RegIdx} {o : Operand2} {k : Nat} {i j : Instr} {s : State}
    (hi : (dpWriters c true rn rd o)[k]? = some i) (hj : (dpWriters c false rn rd o)[k]? = some j)
    (hc : condPassed c.code s.cpsr = true) : WriteOneResult rd s i j := by
  obtain ⟨hki, rfl⟩ := List.getElem?_eq_some_iff.1 hi
  obtain ⟨hkj, rfl⟩ := List.getElem?_eq_some_iff.1 hj
  exact (List.forall₂_iff_get.1 (dpWriters_writeOneResult hc rn rd o)).2 k hki hkj

theorem dpWrite_return (out : AluOut) (s : State) : (dpWrite true 15 out s).settle = returnResult s out.r :=
  s.returnWrite_settle out.r

/-! The three cases of a return. -/

theorem returnResult_of_no_spsr {s : State} (h : s.mode = .usr ∨ s.mode = .sys) (r : Word) :
    returnResult s r = s.haltedBy (.spsrAccess s.mode) := if_pos h

theorem returnResult_of_none {s : State} (h : s.mode ≠ .usr ∧ s.mode ≠ .sys) (hm : modeOf (s.spsr.extractLsb' 0 5) = none)
    (r : Word) : returnResult s r = s.haltedBy (.invalidMode s.spsr) := by
  rw [returnResult, if_neg (not_or.2 h), hm]

/-- `pc` and CPSR as a return writes them, before the switch to the mode returned to. -/
def State.restored (s : State) (r : Word) : State := { s with regs := s.regs.set 15 r, cpsr := s.spsr }

theorem returnResult_of_some {s : State} {m : Mode} (h : s.mode ≠ .usr ∧ s.mode ≠ .sys)
    (hm : modeOf (s.spsr.extractLsb' 0 5) = some m) (r : Word) : returnResult s r = (s.restored r).switchMode m := by
  rw [returnResult, if_neg (not_or.2 h), hm, State.restored]

theorem State.pc_restored (s : State) (r : Word) : (s.restored r).pc = r := s.pc_setPc r

theorem State.regIn_restored (s : State) (r : Word) (m : Mode) {i : RegIdx} (hi : i ≠ 15) :
    (s.restored r).regIn m i = s.regIn m i := by
  have other : (s.regs.set 15 r)[i.toNat]'i.isLt = s.read i := s.read_setPc_ne r hi.symm
  refine (s.regIn_of_active (s.regs.set 15 r) s.spsr s.spsr s.ir s.halted s.err s.mem m i).trans ?_
  rw [other, State.regIn]
  split <;> rfl

theorem State.spsrIn_restored (s : State) (r : Word) (m : Mode) : (s.restored r).spsrIn m = s.spsrIn m :=
  State.ActiveChange.spsrIn_eq (show s.ActiveChange (s.restored r) from rfl) m

/-- R15 is one cell for all modes, so a switch keeps `pc` (R37, R135). -/
theorem State.pc_switchMode (s : State) (m : Mode) : (s.switchMode m).pc = s.pc :=
  calc (s.switchMode m).pc
      = s.regIn m 15 := s.read_switchMode m 15
    _ = s.pc := s.regIn_shared m (.inr rfl)

/-- Settles O30: S = 1 and S = 0 write the same result, which `returnResult` puts into `pc` once both checks pass; the switch then
keeps every view of the registers and the SPSRs. -/
theorem modeReturn : Obligations.ModeReturn := by
  intro c rn o k i j s hi hj hc
  obtain ⟨out, ht, hu⟩ := WriteOneResult.of_getElem? hi hj hc
  rw [dpWrite_return] at ht
  refine ⟨fun h => ?_, fun h hm => ?_, fun h m hm => ?_⟩
  · rw [ht, returnResult_of_no_spsr h]
  · rw [ht, returnResult_of_none h hm]
  · rw [returnResult_of_some h hm] at ht
    have hpc : ((s.restored out.r).switchMode m).pc = (s.write 15 out.r).pc := by
      rw [State.pc_switchMode, State.pc_restored]
      exact (s.pc_setPc out.r).symm
    have hcpsr : ((s.restored out.r).switchMode m).cpsr = s.spsr := State.switchMode_cpsr ..
    have hmem : ((s.restored out.r).switchMode m).mem = s.mem := State.switchMode_mem ..
    exact ⟨_, _, ht, hu, hpc, hcpsr, State.switchMode_mode ..,
      fun m' r hr => by rw [State.regIn_switchMode, State.regIn_restored _ _ _ hr],
      fun m' hm' => by rw [State.spsrIn_switchMode _ _ _ hm', State.spsrIn_restored],
      fun a => by rw [hmem], hmem, State.switchMode_ir .., State.switchMode_halted .., State.switchMode_err ..⟩

end Sys2Proof.Machine
end

section
/-! PROOFS. The family `43_data_processing.md`, continued: the call that MOV PC, LR and SUB PC, LR, #4 return from (R211, R240,
R247), and the words the spec writes out as examples. -/

namespace Sys2Proof.Machine

/-! ## A call and the three returns (R240, R242, R247) -/

/-- A step over a fetched word that encodes an instruction runs it. -/
theorem step_of_encoded {s : State} {i : Instr} (hs : s.Fetchable) (hw : s.mem.wordAt s.pc = encode i) (hi : i.wf = true) :
    step s = exec i (s.fetched (s.mem.wordAt s.pc)) := by
  have hd : decodeWord (s.mem.wordAt s.pc) = .ok i := by rw [hw, decodeWord_encode hi]
  rw [step_of_fetchable hs, decodeAndExecute_decoded _ hd]

/-- The offset of B and BL is the signed field times 4 (R95). -/
theorem branchOffset_eq_ofInt (imm24 : BitVec 24) : branchOffset imm24 = BitVec.ofInt 32 (4 * imm24.toInt) := by
  rw [branchOffset, sext24, BitVec.signExtend, BitVec.shiftLeft_eq_mul_twoPow, Int.mul_comm, BitVec.ofInt_mul]
  rfl

theorem State.pc_fetched (s : State) (w : Word) : (s.fetched w).pc = s.pc + 4 := State.pc_afterFetch s w .word

theorem State.read_fetched_ne (s : State) (w : Word) {i : RegIdx} (h : i ≠ 15) : (s.fetched w).read i = s.read i :=
  State.read_setPc_ne ({ s with ir := w } : State) _ h.symm

/-- A write of `pc` replaces the advanced `pc` of the fetch. -/
theorem State.setPc_fetched (s : State) (w v : Word) :
    (s.fetched w).setPc v = { s with regs := s.regs.set 15 v, ir := w } :=
  State.write_write ({ s with ir := w } : State) pcIdx (s.pc + 4) v

/-- The state after a BL at A: A + 8 in R14, and in `pc` A + 8 + offset (R240, R242). -/
def State.called (s : State) (imm24 : BitVec 24) : State :=
  ((s.fetched (s.mem.wordAt s.pc)).write lr (s.pc + 8)).setPc (s.pc + 8 + BitVec.ofInt 32 (4 * imm24.toInt))

theorem step_bl {s : State} {imm24 : BitVec 24} (hs : s.Fetchable) (hw : s.mem.wordAt s.pc = encode (.bl .al imm24)) :
    step s = .next (s.called imm24) := by
  have link : s.pc + 4 + 4 = s.pc + 8 := add_assoc ..
  have pc_kept (t : State) (v : Word) : (t.write lr v).pc = t.pc := t.read_write_ne v (by decide)
  rw [step_of_encoded hs hw rfl, exec_bl, condPassed_al, if_pos rfl, State.linkValue, State.branchBy, pc_kept, State.pc_fetched,
    link, branchOffset_eq_ofInt, State.called]

theorem exec_movPcLr (s : State) : exec (.movShImm .al false 15 0 .lsl 14) s = .next (s.setPc (s.read 14)) := by
  rw [exec_movShImm, condPassed_al, if_pos rfl]
  rfl

theorem exec_subPcLr (s : State) : exec (.subImm .al false 14 15 0 4) s = .next (s.setPc (s.read 14 - 4)) := by
  have result : (aluSub (s.read 14) (shifterOperand (.imm 0 4) s)).r = s.read 14 - 4 := addWithCarry_not_r ..
  rw [exec_subImm, condPassed_al, if_pos rfl, ← result]
  rfl

theorem withT_eq (v : Word) (t : Bool) : withT v t = if t then v ||| 0x20 else v &&& 0xFFFFFFDF := rfl

/-- Settles O34: the step over BL is `State.called`, and each return writes `pc` from an R14 that the fetch left alone. -/
theorem callFromAddress : Obligations.CallFromAddress := by
  intro s imm24 hs hw
  have link : (s.called imm24).read 14 = s.pc + 8 := by
    rw [State.called, State.read_setPc_ne _ _ (by decide)]
    exact State.read_write_self ..
  have low (r : RegIdx) (hr : r.toNat < 14) : (s.called imm24).read r = s.read r := by
    have h15 : pcIdx ≠ r := fun e => by simp [← e, pcIdx] at hr
    have h14 : lr ≠ r := fun e => by simp [← e, lr] at hr
    rw [State.called, State.read_setPc_ne _ _ h15, State.read_write_ne _ _ h14, State.read_fetched_ne _ _ h15.symm]
  refine ⟨s.called imm24, step_bl hs hw, State.pc_setPc .., link, low, fun _ => rfl, rfl, fun u hu hlr => ?_⟩
  intro word
  have hlr' : (u.fetched word).read 14 = s.pc + 8 := by rw [State.read_fetched_ne _ _ (by decide), hlr, link]
  refine ⟨fun h => ?_, fun h => ?_, fun h => ?_⟩
  · rw [step_of_encoded hu h rfl, exec_movPcLr, hlr', State.setPc_fetched]
  · have back : s.pc + 8 - 4 = s.pc + 4 := add_sub_assoc ..
    rw [step_of_encoded hu h rfl, exec_subPcLr, hlr', back, State.setPc_fetched]
  · rw [step_of_encoded hu h rfl, exec_bx, condPassed_al, if_pos rfl, hlr', State.exchangeTo, State.setPc_fetched, State.setT,
      withT_eq]

/-! ## The words the spec writes out (R214 to R284) -/

theorem decodeWord_of_encode {w : Word} {i : Instr} (hw : encode i = w) (hi : i.wf = true) : decodeWord w = .ok i := by
  rw [← hw, decodeWord_encode hi]

/-- Settles O1: all but the multiply, whose row ignores its registers, are the words that encode their instructions. -/
theorem sampleWordsDecode : Obligations.SampleWordsDecode := by
  refine ⟨?_, ?_, ?_, ?_, ?_, ?_, ?_, ?_, ?_, ?_, ?_, ?_, ?_, ?_, ?_, ?_, ?_, ?_, by decide, ?_⟩
  all_goals exact decodeWord_of_encode (by decide) rfl

end Sys2Proof.Machine
end

section
/-! PROOFS. The family `44_branch.md`: target, link and T of the five branches (R241 to R245). -/

namespace Sys2Proof.Machine

/-! ## Target and link value -/

/-- The target is relative to PCx, which the link leaves alone: R14 is not `pc` (R242). -/
@[simp] theorem State.pc_write_lr (s : State) (v : Word) : (s.write lr v).pc = s.pc := s.read_write_ne v (by decide)

theorem State.branchBy_eq (s : State) (off : Word) :
    s.branchBy off = { s with regs := s.regs.set 15 (s.pc + 4 + off) } := rfl

theorem State.linked_branchBy (s : State) (off : Word) :
    (s.write lr s.linkValue).branchBy off =
      { s with regs := (s.regs.set 14 (s.pc + 4)).set 15 (s.pc + 4 + off) } := by
  rw [State.branchBy_eq, State.pc_write_lr]
  rfl

theorem State.exchangeTo_eq (s : State) (v : Word) :
    s.exchangeTo v =
      { s with
        regs := s.regs.set 15 (v &&& 0xFFFFFFFE)
        cpsr := if v.getLsbD 0 then s.cpsr ||| 0x20 else s.cpsr &&& 0xFFFFFFDF } := by
  rw [State.exchangeTo, State.setT, State.setPc_cpsr, withT_eq]
  rfl

/-- The halfword bit of BLX adds 2 to the offset of BL (R96, R243). -/
theorem blxOffset_eq_ofInt (h : Bool) (imm24 : BitVec 24) :
    blxOffset h imm24 = BitVec.ofInt 32 (4 * imm24.toInt) + BitVec.ofNat 32 (2 * h.toNat) := by
  have halfword : (BitVec.ofBool h).setWidth 32 <<< 1 = BitVec.ofNat 32 (2 * h.toNat) := by cases h <;> rfl
  rw [blxOffset, branchOffset_eq_ofInt, halfword]

/-! ## The five branches -/

/-- Settles O33: BLX is BX from the linked state, to a target read before the link. -/
theorem exchangeResults : Obligations.ExchangeResults := by
  intro c rm s v cpsr'
  constructor
  · rw [exec_bx, State.exchangeTo_eq]
  · rw [exec_blxReg, State.exchangeTo_eq, State.write_cpsr, State.write_regs]
    rfl

/-- Settles O32: BL is B from the linked state, and BLX goes `2 * H` further than BL and then sets T. -/
theorem branchResults : Obligations.BranchResults := by
  intro c h imm24 s target
  refine ⟨?_, ?_, ?_⟩
  · rw [exec_b, branchOffset_eq_ofInt, State.branchBy_eq]
  · rw [exec_bl, branchOffset_eq_ofInt, State.linked_branchBy]
  · have blxTarget : s.pc + 4 + blxOffset h imm24 = target + BitVec.ofNat 32 (2 * h.toNat) := by
      rw [blxOffset_eq_ofInt, ← add_assoc]
    rw [exec_blxImm, State.linked_branchBy, blxTarget, State.setT, withT_eq, if_pos rfl]

end Sys2Proof.Machine
end

section
/-! PROOFS. The family `45_load_store_multiple.md`: the addresses of a block, and what each of the six transfers leaves behind,
whether it completes or stops at its first access out of range (R256 to R269). -/

namespace Sys2Proof.Machine

/-! ## Ranks and addresses (R256) -/

theorem length_listedRegs (list : BitVec 16) : (listedRegs list).length = rank list 16 := by simp [listedRegs, rank]

theorem blockSize_eq (list : BitVec 16) : blockSize list = BitVec.ofNat 32 (4 * rank list 16) := by
  rw [blockSize, length_listedRegs]

theorem rank_succ (list : BitVec 16) (n : Nat) : rank list (n + 1) = rank list n + (list.getLsbD n).toNat := by
  cases bit : list.getLsbD n <;> simp [rank, List.range_succ, bit]

theorem rank_succ_of_listed {list : BitVec 16} {i : RegIdx} (h : listed list i = true) :
    rank list (i.toNat + 1) = rank list i.toNat + 1 := by
  have bit : list.getLsbD i.toNat = true := h
  rw [rank_succ, bit, Bool.toNat_true]

/-- Over a gap in the list the rank stays what it is. -/
theorem rank_eq_of_gap {list : BitVec 16} {m n : Nat} (hmn : m ≤ n) (hn : n ≤ 16)
    (h : ∀ k : RegIdx, m ≤ k.toNat → k.toNat < n → listed list k = false) : rank list n = rank list m := by
  induction n, hmn using Nat.le_induction with
  | base => rfl
  | succ n hmn ih =>
    have toNat_n : (BitVec.ofNat 4 n).toNat = n := Nat.mod_eq_of_lt hn
    have bit : list.getLsbD n = false := by
      simpa only [listed, toNat_n] using h (BitVec.ofNat 4 n) (by omega) (by omega)
    rw [rank_succ, bit, Bool.toNat_false, Nat.add_zero, ih (by omega) fun k h1 h2 => h k h1 (by omega)]

theorem transferAddr_next (a : Word) (k : Nat) : transferAddr a (k + 1) = transferAddr a k + 4 := by
  rw [← transferAddr_succ]
  exact add_right_comm a 4 _

/-- Settles O35: the lowest listed register has rank 0, and from a listed register to the next the rank rises by one. -/
theorem blockAddresses : Obligations.BlockAddresses := by
  intro base list
  rw [← blockSize_eq]
  refine ⟨rfl, rfl, rfl, rfl, rfl, rfl, fun p u i _ lowest => ?_, fun p u i j hij hi _ gap => ?_⟩
  · have hr : rank list i.toNat = rank list 0 :=
      rank_eq_of_gap (Nat.zero_le _) i.isLt.le fun k _ => lowest k
    rw [blockAddr_eq, hr]
    exact transferAddr_zero _
  · have hr : rank list j.toNat = rank list i.toNat + 1 :=
      (rank_eq_of_gap hij j.isLt.le gap).trans (rank_succ_of_listed hi)
    rw [blockAddr_eq, hr, transferAddr_next, ← blockAddr_eq]

/-! ## Changes of the active state -/

theorem State.ActiveChange.mode_eq {s t : State} (h : s.ActiveChange t) : t.mode = s.mode := by
  rw [State.ActiveChange] at h
  rw [h]

theorem State.ActiveChange.spsr_eq {s t : State} (h : s.ActiveChange t) : t.spsr = s.spsr := by
  rw [State.ActiveChange] at h
  rw [h]

/-- Every view is one of registers and bank storage. -/
theorem State.ActiveChange.regIn_of_regs {s t : State} (h : s.ActiveChange t) (hr : t.regs = s.regs) (m : Mode) (i : RegIdx) :
    t.regIn m i = s.regIn m i := by
  rw [State.ActiveChange] at h
  rw [h, hr, State.regIn, State.regIn]
  cases m <;> rfl

theorem Loaded.activeChange {l : List RegIdx} {a : Word} {s t : State} (h : Loaded l a s t) : s.ActiveChange t := by
  rw [State.ActiveChange, h.rest]

theorem Loaded.mem_eq {l : List RegIdx} {a : Word} {s t : State} (h : Loaded l a s t) : t.mem = s.mem := by rw [h.rest]

theorem Stored.activeChange {l : List RegIdx} {a : Word} {s t : State} (h : Stored l a s t) : s.ActiveChange t := by
  rw [State.ActiveChange, h.rest]

theorem Stored.regIn_eq {l : List RegIdx} {a : Word} {s t : State} (h : Stored l a s t) (m : Mode) (i : RegIdx) :
    t.regIn m i = s.regIn m i := h.activeChange.regIn_of_regs (by rw [h.rest]) m i

/-! ## The visit to the User bank (R266) -/

theorem State.asUser_ok {s t : State} {transfer : State → Run} (h : transfer (s.switchMode .usr) = .ok t) :
    s.asUser transfer = .ok (t.switchMode s.mode) := by
  rw [State.asUser, h, Run.andThen_ok]

theorem State.asUser_err {s t : State} {f : Fault} {transfer : State → Run} (h : transfer (s.switchMode .usr) = .err t f) :
    s.asUser transfer = .err t f := by
  rw [State.asUser, h, Run.andThen_err]

/-- Back in the mode the User bank was entered from, that mode's SPSR is the active one again (R137). -/
theorem State.ActiveChange.spsr_after_user {s t : State} (h : (s.switchMode .usr).ActiveChange t) :
    (t.switchMode s.mode).spsr = s.spsr := by
  have toUser : (s.switchMode .usr).spsr = s.spsr := s.switchMode_spsr_of_none rfl
  cases hm : s.mode.hasSpsr with
  | false => rw [State.switchMode_spsr_of_none _ hm, h.spsr_eq, toUser]
  | true => rw [State.spsr_switchMode _ hm, h.spsrIn_eq, State.spsrIn_switchMode _ _ _ hm, State.spsrIn_self]

/-- Everything but general registers and memory is as it was, each mode's SPSR included. -/
structure KeepsControl (s t : State) : Prop where
  spsrIn : ∀ m : Mode, m.hasSpsr = true → t.spsrIn m = s.spsrIn m
  mode : t.mode = s.mode
  cpsr : t.cpsr = s.cpsr
  spsr : t.spsr = s.spsr
  ir : t.ir = s.ir
  halted : t.halted = s.halted
  err : t.err = s.err

/-- Transfers of general registers with the User bank visible keep everything else. -/
theorem KeepsControl.of_user {s t : State} (h : t = { s.switchMode .usr with regs := t.regs, mem := t.mem }) :
    KeepsControl s (t.switchMode s.mode) := by
  have act : (s.switchMode .usr).ActiveChange t := by rw [State.ActiveChange, h]
  refine ⟨fun m hm => ?_, State.switchMode_mode _ _, ?_, act.spsr_after_user, ?_, ?_, ?_⟩
  · rw [State.spsrIn_switchMode _ _ _ hm, act.spsrIn_eq, State.spsrIn_switchMode _ _ _ hm]
  all_goals rw [h]; simp

theorem KeepsControl.of_afterWriteBack {s t : State} {u w : Bool} {rn : RegIdx} {list : BitVec 16}
    (h : KeepsControl (afterWriteBack s u w rn list) t) : KeepsControl s t where
  spsrIn m hm := (h.spsrIn m hm).trans (afterWriteBack_spsrIn ..)
  mode := h.mode.trans (afterWriteBack_mode ..)
  cpsr := h.cpsr.trans (afterWriteBack_cpsr ..)
  spsr := h.spsr.trans (afterWriteBack_spsr ..)
  ir := h.ir.trans (afterWriteBack_ir ..)
  halted := h.halted.trans (afterWriteBack_halted ..)
  err := h.err.trans (afterWriteBack_err ..)

/-! ## Transfers that complete -/

section
variable {p u : Bool} {base : Word} {list : BitVec 16} {s : State}

theorem loadBlock_of_inRange (h : blockInRange s.mem p u base list) :
    ∃ t, loadBlock (listedRegs list) (blockStart p u base list) s = .ok t ∧
      Loaded (listedRegs list) (blockStart p u base list) s t :=
  loadBlock_ok _ _ s (nodup_listedRegs list) (transfers_in_range h)

theorem storeBlock_of_inRange (hw : s.mem.wf = true) (h : blockInRange s.mem p u base list) :
    ∃ t, storeBlock (listedRegs list) (blockStart p u base list) s = .ok t ∧
      Stored (listedRegs list) (blockStart p u base list) s t :=
  storeBlock_ok _ _ s (length_listedRegs_le list) hw (transfers_in_range h)

end

/-- A whole block load as the mode that runs it sees it. -/
theorem Loaded.read_all {list : BitVec 16} {a : Word} {s t : State} (h : Loaded (listedRegs list) a s t) {i : RegIdx}
    (hi : i ≠ 15 ∨ listed list i = false) :
    t.read i = if listed list i then s.mem.wordAt (transferAddr a (rank list i.toNat)) else s.read i := by
  have view := h.view_all t.mode i hi
  rw [State.regIn_self, h.activeChange.mode_eq, State.regIn_self] at view
  simpa only [sameCell_self, and_true] using view

/-- R15 and CPSR after a whole block load (R260). -/
theorem Loaded.pc_cpsr {list : BitVec 16} {a : Word} {s t : State} (h : Loaded (listedRegs list) a s t) :
    (t.pc = if listed list 15 then s.mem.wordAt (transferAddr a (rank list 15)) &&& 0xFFFFFFFE else s.pc) ∧
    t.cpsr = if listed list 15 && (s.mem.wordAt (transferAddr a (rank list 15))).getLsbD 0 then s.cpsr ||| 0x20
      else s.cpsr := by
  cases hl : listed list 15 with
  | true => exact h.pc_all hl
  | false =>
    have notMem : (15 : RegIdx) ∉ listedRegs list := by rw [mem_listedRegs, hl]; decide
    exact ⟨h.miss 15 notMem, h.noPc notMem⟩

/-- Settles O36: the write-back comes before the loads, so a listed base holds its loaded word. -/
theorem ldmResult : Obligations.LdmResult := by
  intro c p u w rn list s hc hr
  obtain ⟨t, run, L⟩ := loadBlock_of_inRange (s := afterWriteBack s u w rn list) (by rwa [afterWriteBack_mem])
  obtain ⟨pc, cpsr⟩ := L.pc_cpsr
  have rest : t = { s with regs := t.regs, cpsr := t.cpsr } := by
    have h := L.rest
    rwa [afterWriteBack_rest] at h
  rw [afterWriteBack_mem] at pc cpsr
  rw [afterWriteBack_cpsr] at cpsr
  refine ⟨t, ?_, fun i hi => ?_, ⟨pc, cpsr⟩, fun a => by rw [rest], rest⟩
  · rw [exec_ldm, if_pos hc, runLoad, State.writeBack_eq, run, Run.settle_ok]
  · have read := L.read_all (.inl hi)
    rwa [afterWriteBack_mem] at read

/-- Settles O37: the loads see the User bank, and neither the switch to it nor the one back changes a cell. -/
theorem ldmUserResult : Obligations.LdmUserResult := by
  intro c p u w rn list s hc hl hr
  have notMem : (15 : RegIdx) ∉ listedRegs list := by rw [mem_listedRegs, hl]; decide
  obtain ⟨t, run, L⟩ := loadBlock_of_inRange (s := (afterWriteBack s u w rn list).switchMode .usr)
    (by rwa [State.switchMode_mem, afterWriteBack_mem])
  have kept : KeepsControl s (t.switchMode (afterWriteBack s u w rn list).mode) :=
    (KeepsControl.of_user (by rw [L.rest, L.noPc notMem])).of_afterWriteBack
  have mem : (t.switchMode (afterWriteBack s u w rn list).mode).mem = s.mem := by
    rw [State.switchMode_mem, L.mem_eq, State.switchMode_mem, afterWriteBack_mem]
  refine ⟨_, ?_, fun m i => ?_, kept.spsrIn, fun a => by rw [mem], kept.mode, kept.cpsr, kept.spsr, mem, kept.ir,
    kept.halted, kept.err⟩
  · rw [exec_ldmUser, if_pos hc, State.writeBack_eq, State.asUser_ok run, Run.settle_ok]
  · have hi : i ≠ 15 ∨ listed list i = false := by
      by_cases h : i = 15
      · exact .inr (h ▸ hl)
      · exact .inl h
    have view := L.view_all m i hi
    rwa [State.switchMode_mode, State.switchMode_mem, State.regIn_switchMode, afterWriteBack_mem,
      ← State.regIn_switchMode t] at view

/-! LDM_RET's two checks (R261), one lemma for each outcome. -/

theorem State.checkReturn_of_no_spsr {s : State} (h : s.mode = .usr ∨ s.mode = .sys) :
    s.checkReturn = .err s (.spsrAccess s.mode) := by
  rw [State.checkReturn, State.checkSpsr_eq, if_pos h, Run.andThen_err]

theorem State.checkReturn_of_none {s : State} (h : s.mode ≠ .usr ∧ s.mode ≠ .sys) (hm : modeOf (modeField s.spsr) = none) :
    s.checkReturn = .err s (.invalidMode s.spsr) := by
  rw [State.checkReturn, State.checkSpsr_eq, if_neg (not_or.2 h), Run.andThen_ok, validMode, hm]
  rfl

theorem State.checkReturn_of_some {s : State} {m : Mode} (h : s.mode ≠ .usr ∧ s.mode ≠ .sys)
    (hm : modeOf (modeField s.spsr) = some m) : s.checkReturn = .ok s := by
  rw [State.checkReturn, State.checkSpsr_eq, if_neg (not_or.2 h), Run.andThen_ok, validMode, hm]
  rfl

/-- Settles O38: past the checks, LDM_RET is LDM followed by a CPSR write whose mode switch changes no cell. -/
theorem ldmRetResult : Obligations.LdmRetResult := by
  intro c p u w rn list s hc hl
  refine ⟨fun h => ?_, fun h hm => ?_, fun h hr m hm => ?_⟩
  · rw [exec_ldmRet, if_pos hc, State.checkReturn_of_no_spsr h, Run.andThen_err, Run.settle_err]
  · rw [exec_ldmRet, if_pos hc, State.checkReturn_of_none h hm, Run.andThen_err, Run.settle_err]
  · obtain ⟨t, run, L⟩ := loadBlock_of_inRange (s := afterWriteBack s u w rn list) (by rwa [afterWriteBack_mem])
    have tspsr : t.spsr = s.spsr := by rw [L.activeChange.spsr_eq, afterWriteBack_spsr]
    have names : modeOf (modeField t.spsr) = some m := by rw [tspsr]; exact hm
    have act : t.ActiveChange { t with cpsr := t.spsr } := rfl
    have pc : t.pc = s.mem.wordAt (blockAddr p u (s.read rn) list 15) &&& 0xFFFFFFFE := by
      rw [(L.pc_all hl).1, afterWriteBack_mem]; rfl
    have mem : (({ t with cpsr := t.spsr } : State).switchMode m).mem = s.mem := by
      rw [State.switchMode_mem, L.mem_eq, afterWriteBack_mem]
    refine ⟨_, ?_, ?_, (State.switchMode_cpsr _ _).trans tspsr, State.switchMode_mode _ _, fun m' i hi => ?_,
      fun m' hm' => ?_, fun a => by rw [mem], mem, ?_, ?_, ?_⟩
    · rw [exec_ldmRet, if_pos hc, State.checkReturn_of_some h hm, Run.andThen_ok, runLoad, State.writeBack_eq, run,
        Run.andThen_ok, State.writeCpsr_of_some names, Run.settle_ok]
    · rw [State.pc_switchMode]; exact pc
    · have view := L.view_all m' i (.inl hi)
      rw [afterWriteBack_mode, afterWriteBack_mem] at view
      rw [State.regIn_switchMode, act.regIn_of_regs rfl, view]
      rfl
    · rw [State.spsrIn_switchMode _ _ _ hm', act.spsrIn_eq, L.activeChange.spsrIn_eq, afterWriteBack_spsrIn]
    · rw [State.switchMode_ir, L.rest, afterWriteBack_ir]
    · rw [State.switchMode_halted, L.rest, afterWriteBack_halted]
    · rw [State.switchMode_err, L.rest, afterWriteBack_err]

/-- Settles O39: both forms run the same body, whose transfers read the written-back registers and write memory alone. -/
theorem stmResult : Obligations.StmResult := by
  intro c p u w rn list i s hc hi hw hr
  obtain ⟨t, run, S⟩ := storeBlock_of_inRange (s := afterWriteBack s u w rn list) (by rwa [afterWriteBack_mem])
    (by rwa [afterWriteBack_mem])
  have body : exec i s = .next (runStore p u w rn list s).settle := by
    rcases hi with rfl | rfl
    · rw [exec_stm, if_pos hc]
    · rw [exec_stmSPc, if_pos hc]
  refine ⟨t, ?_, fun r hl => S.at_blockAddr hl, fun a ha => ?_, S.rest⟩
  · rw [body, runStore, State.writeBack_eq, run, Run.settle_ok]
  · rw [S.outside ha, afterWriteBack_mem]

/-- Settles O40: the transfers read the User bank, and neither the switch to it nor the one back changes a cell. -/
theorem stmUserResult : Obligations.StmUserResult := by
  intro c p u w rn list s hc _ hw hr
  obtain ⟨t, run, S⟩ := storeBlock_of_inRange (s := (afterWriteBack s u w rn list).switchMode .usr)
    (by rwa [State.switchMode_mem, afterWriteBack_mem]) (by rwa [State.switchMode_mem, afterWriteBack_mem])
  have kept : KeepsControl s (t.switchMode (afterWriteBack s u w rn list).mode) :=
    (KeepsControl.of_user (by rw [S.rest])).of_afterWriteBack
  refine ⟨_, ?_, fun r hl => ?_, fun a ha => ?_, fun m r => ?_, kept.spsrIn, kept.mode, kept.cpsr, kept.spsr, kept.ir,
    kept.halted, kept.err⟩
  · rw [exec_stmUser, if_pos hc, State.writeBack_eq, State.asUser_ok run, Run.settle_ok]
  · rw [State.switchMode_mem, S.at_blockAddr hl, State.read_switchMode]
  · rw [State.switchMode_mem, S.outside ha, State.switchMode_mem, afterWriteBack_mem]
  · rw [State.regIn_switchMode, S.regIn_eq, State.regIn_switchMode]

/-! ## Transfers that stop (R269) -/

/-- A block load that began in the written-back state `s`, with the registers of `bank` visible, and stopped at register `j`. -/
structure LoadStopped (list : BitVec 16) (addr : RegIdx → Word) (j : RegIdx) (s : State) (bank : Mode) (t : State) : Prop where
  cells : ∀ (m : Mode) (i : RegIdx), t.regIn m i =
    if listed list i ∧ i.toNat < j.toNat ∧ sameCell bank m i = true then s.mem.wordAt (addr i) else s.regIn m i
  mode : t.mode = bank
  cpsr : t.cpsr = s.cpsr
  mem : t.mem = s.mem
  halted : t.halted = true
  err : t.err = some (.addressError (addr j))

/-- A block store that began in the written-back state `s`, with the registers of `bank` visible, and stopped at register `j`;
`outside` are the addresses that none of the completed transfers covers. -/
structure StoreStopped (list : BitVec 16) (addr : RegIdx → Word) (outside : Nat → Prop) (j : RegIdx) (s : State) (bank : Mode)
    (t : State) : Prop where
  words : ∀ r : RegIdx, listed list r = true → r.toNat < j.toNat → t.mem.wordAt (addr r) = s.regIn bank r
  others : ∀ a, outside a → t.mem.byte a = s.mem.byte a
  cells : ∀ (m : Mode) (r : RegIdx), t.regIn m r = s.regIn m r
  mode : t.mode = bank
  cpsr : t.cpsr = s.cpsr
  halted : t.halted = true
  err : t.err = some (.addressError (addr j))

section
variable {p u : Bool} {base : Word} {list : BitVec 16} {j : RegIdx} {s : State}

/-- The registers below the first transfer out of range are loaded, and R15, which no register follows, is not among them. -/
theorem loadBlock_stops (bank : Mode) (h : blockFailsAt s.mem p u base list j) :
    ∃ t, loadBlock (listedRegs list) (blockStart p u base list) (s.switchMode bank)
        = .err t (.addressError (blockAddr p u base list j)) ∧
      LoadStopped list (blockAddr p u base list) j s bank (t.haltedBy (.addressError (blockAddr p u base list j))) := by
  obtain ⟨l1, l2, split, len, mem, ranks, below, fails⟩ := blockFailsAt_split h
  obtain ⟨t, run, L⟩ := loadBlock_fails (l1 := l1) (l2 := l2) (i := j) (s := s.switchMode bank)
    (split ▸ nodup_listedRegs list) (by rwa [State.switchMode_mem]) (by rwa [State.switchMode_mem])
  rw [← split, len, ← blockAddr_eq] at run
  have pcNotBelow : ¬ (listed list 15 = true ∧ (15 : RegIdx).toNat < j.toNat) := fun ⟨_, hj⟩ =>
    absurd (Nat.le_of_lt_succ j.isLt) (Nat.not_le.2 hj)
  have cells (m : Mode) (i : RegIdx) : t.regIn m i =
      if listed list i ∧ i.toNat < j.toNat ∧ sameCell bank m i = true then s.mem.wordAt (blockAddr p u base list i)
      else s.regIn m i := by
    have hi : i ≠ 15 ∨ ¬ (listed list i = true ∧ i.toNat < j.toNat) := by
      by_cases hi : i = 15
      · exact .inr (hi ▸ pcNotBelow)
      · exact .inl hi
    have view := L.view _ mem ranks m i hi
    simpa only [State.switchMode_mode, State.switchMode_mem, State.regIn_switchMode, ← blockAddr_eq, and_assoc] using view
  have halt : t.ActiveChange (t.haltedBy (.addressError (blockAddr p u base list j))) := rfl
  refine ⟨t, run, fun m i => (halt.regIn_of_regs rfl m i).trans (cells m i), ?_, ?_, ?_, rfl, rfl⟩
  · exact L.activeChange.mode_eq.trans (State.switchMode_mode _ _)
  · exact (L.noPc fun h15 => pcNotBelow ((mem 15).1 h15)).trans (State.switchMode_cpsr _ _)
  · exact L.mem_eq.trans (State.switchMode_mem _ _)

theorem storeBlock_stops (bank : Mode) (hw : s.mem.wf = true) (h : blockFailsAt s.mem p u base list j) :
    ∃ t, storeBlock (listedRegs list) (blockStart p u base list) (s.switchMode bank)
        = .err t (.addressError (blockAddr p u base list j)) ∧
      StoreStopped list (blockAddr p u base list) (outsideBlock p u base list j.toNat) j s bank
        (t.haltedBy (.addressError (blockAddr p u base list j))) := by
  obtain ⟨l1, l2, split, len, mem, ranks, below, fails⟩ := blockFailsAt_split h
  have short : l1.length ≤ 16 := by
    have := length_listedRegs_le list
    rw [split, List.length_append] at this
    omega
  obtain ⟨t, run, S⟩ := storeBlock_fails (l2 := l2) (i := j) (s := s.switchMode bank) short
    (by rwa [State.switchMode_mem]) (by rwa [State.switchMode_mem]) (by rwa [State.switchMode_mem])
  rw [← split, len, ← blockAddr_eq] at run
  have halt : t.ActiveChange (t.haltedBy (.addressError (blockAddr p u base list j))) := rfl
  refine ⟨t, run, fun r hl hr => ?_, fun a ha => ?_, fun m r => ?_, ?_, ?_, rfl, rfl⟩
  · obtain ⟨k, hk, rfl⟩ := List.getElem_of_mem ((mem r).2 ⟨hl, hr⟩)
    have addr : blockAddr p u base list l1[k] = transferAddr (blockStart p u base list) k := by
      rw [blockAddr_eq, ranks k hk]
    rw [addr, ← State.read_switchMode]
    exact S.hit k hk
  · have kept : t.mem.byte a = (s.switchMode bank).mem.byte a := S.miss a fun k hk => by
      obtain ⟨hl, hr⟩ := (mem _).1 (List.getElem_mem hk)
      have := ha _ hl hr
      rwa [blockAddr_eq, ranks k hk] at this
    rw [State.switchMode_mem] at kept
    exact kept
  · rw [halt.regIn_of_regs rfl, S.regIn_eq, State.regIn_switchMode]
  · exact S.activeChange.mode_eq.trans (State.switchMode_mode _ _)
  · have tcpsr : t.cpsr = (s.switchMode bank).cpsr := by rw [S.rest]
    exact tcpsr.trans (State.switchMode_cpsr _ _)

end

/-- Settles O41: the three loads run one block, from the written-back state with the bank of their mode or of User visible. -/
theorem loadBlockFails : Obligations.LoadBlockFails := by
  intro c p u w rn list j s hc h loaded
  have stops (bank : Mode) := loadBlock_stops (s := afterWriteBack s u w rn list) bank (by rwa [afterWriteBack_mem])
  have meets {bank : Mode} {t : State} (L : LoadStopped list (blockAddr p u (s.read rn) list) j (afterWriteBack s u w rn list)
      bank t) : loaded bank t := by
    obtain ⟨cells, mode, cpsr, mem, halted, err⟩ := L
    rw [afterWriteBack_mem] at cells mem
    rw [afterWriteBack_cpsr] at cpsr
    exact ⟨cells, mode, cpsr, mem, halted, err⟩
  obtain ⟨t, run, L⟩ := stops s.mode
  obtain ⟨t', run', L'⟩ := stops .usr
  rw [State.switchMode_of_mode_eq (afterWriteBack_mode ..)] at run
  refine ⟨⟨_, ?_, meets L⟩, ⟨_, ?_, meets L'⟩, fun hs hm => ⟨_, ?_, meets L⟩⟩
  · rw [exec_ldm, if_pos hc, runLoad, State.writeBack_eq, run, Run.settle_err]
  · rw [exec_ldmUser, if_pos hc, State.writeBack_eq, State.asUser_err run', Run.settle_err]
  · obtain ⟨m, hm⟩ := Option.isSome_iff_exists.1 hm
    rw [exec_ldmRet, if_pos hc, State.checkReturn_of_some ((hasSpsr_true_iff _).1 hs) hm, Run.andThen_ok, runLoad,
      State.writeBack_eq, run, Run.andThen_err, Run.settle_err]

/-- Settles O42: the three stores run one block, from the written-back state with the bank of their mode or of User visible. -/
theorem storeBlockFails : Obligations.StoreBlockFails := by
  intro c p u w rn list j s hc hw h stored
  have stops (bank : Mode) := storeBlock_stops (s := afterWriteBack s u w rn list) bank (by rwa [afterWriteBack_mem])
    (by rwa [afterWriteBack_mem])
  have meets {bank : Mode} {t : State} (S : StoreStopped list (blockAddr p u (s.read rn) list)
      (outsideBlock p u (s.read rn) list j.toNat) j (afterWriteBack s u w rn list) bank t) : stored bank t := by
    obtain ⟨words, others, cells, mode, cpsr, halted, err⟩ := S
    rw [afterWriteBack_mem] at others
    rw [afterWriteBack_cpsr] at cpsr
    exact ⟨words, others, cells, mode, cpsr, halted, err⟩
  obtain ⟨t, run, S⟩ := stops s.mode
  obtain ⟨t', run', S'⟩ := stops .usr
  rw [State.switchMode_of_mode_eq (afterWriteBack_mode ..)] at run
  refine ⟨⟨_, ?_, meets S⟩, ⟨_, ?_, meets S⟩, ⟨_, ?_, meets S'⟩⟩
  · rw [exec_stm, if_pos hc, runStore, State.writeBack_eq, run, Run.settle_err]
  · rw [exec_stmSPc, if_pos hc, runStore, State.writeBack_eq, run, Run.settle_err]
  · rw [exec_stmUser, if_pos hc, State.writeBack_eq, State.asUser_err run', Run.settle_err]

end Sys2Proof.Machine
end

section
/-! PROOFS. The family `46_misc_status.md`: MRS, the bytes that MSR writes, CLZ, and CPSR's control bits under every step from User
mode (R280 to R285, R336). -/

namespace Sys2Proof.Machine

/-! ## The control bits in User mode (R336) -/

/-- In User mode a return is refused (R327) and MSR keeps the control byte (R285); nothing else writes I, F or M. -/
theorem Effect.control_of_usr {i : Instr} {s t : State} (e : Effect i s t) (hu : s.mode = .usr) :
    t.cpsr &&& 0xDF = s.cpsr &&& 0xDF := by
  cases e with
  | plain r c hc => exact hc
  | halt f => rfl
  | spsr v _ => rfl
  | ret r c m h _ _ =>
    have noSpsr : s.mode.hasSpsr = false := (hasSpsr_false_iff _).2 (.inl hu)
    exact absurd h (by rw [noSpsr]; decide)
  | msr c m _ hk =>
    rw [State.switchMode_cpsr]
    exact control_of_byte (hk.resolve_right fun ⟨notUsr, _⟩ => notUsr hu)
  | loadErr r c a hc _ => exact hc
  | store r mem _ _ _ => rfl
  | storeErr r mem a _ _ _ => rfl
  | user r r' c mem hc _ _ _ => rw [State.switchMode_cpsr]; exact hc
  | userErr r r' c mem a hc _ _ _ _ => exact hc

/-- The fetch does not touch CPSR, so a step writes the control bits in its instruction only. -/
theorem StepEffect.control_of_usr {s t : State} (e : StepEffect s t) (hu : s.mode = .usr) :
    t.cpsr &&& 0xDF = s.cpsr &&& 0xDF := by
  cases e with
  | halted _ => rfl
  | fetchError _ f => rfl
  | stopped _ w width f => rfl
  | skipped _ w => rfl
  | ran _ w i _ e => exact e.control_of_usr hu

/-- Settles O56: a step from User mode changes the active state alone, of which `mode` is no part, and keeps the control bits. -/
theorem userModeCannotBeLeft : Obligations.UserModeCannotBeLeft := by
  intro s t h hu ht
  have e : StepEffect s t := .of_step ht
  exact ⟨(e.activeChange_of_usr h hu).mode_eq.trans hu, e.control_of_usr hu⟩

/-! ## Access to SPSR (R141) -/

/-- A body that begins with `CheckSPSR`. -/
theorem State.checkSpsr_andThen_settle (s : State) (k : State → Run) :
    (s.checkSpsr.andThen k).settle =
      if s.mode = .usr ∨ s.mode = .sys then s.haltedBy (.spsrAccess s.mode) else (k s).settle := by
  rw [State.checkSpsr_eq]
  split
  · rw [Run.andThen_err, Run.settle_err]
  · rw [Run.andThen_ok]

/-- Settles O43, one status register at a time. -/
theorem mrsResult : Obligations.MrsResult := by
  intro c rd s
  constructor
  · exact exec_mrs c .cpsr rd s
  · rw [exec_mrs, runMrs, State.checkSpsr_andThen_settle]
    rfl

/-! ## The bits that MSR writes (R281, R285) -/

theorem getLsbD_mergeMask (old v m : Word) {k : Nat} (hk : k < 32) :
    (mergeMask old v m).getLsbD k = if m.getLsbD k then v.getLsbD k else old.getLsbD k := by
  simp only [mergeMask, BitVec.getLsbD_or, BitVec.getLsbD_and, BitVec.getLsbD_not, hk]
  cases m.getLsbD k <;> simp

/-- Bit `k` lies in byte `k / 8`, which bit `k / 8` of the field mask selects (R281). -/
theorem getLsbD_fieldMask (mask : BitVec 4) {k : Nat} (hk : k < 32) : (fieldMask mask).getLsbD k = mask.getLsbD (k / 8) := by
  have byte (b : Bool) (m : Word) : (if b then m else 0).getLsbD k = (b && m.getLsbD k) := by
    cases b <;> simp
  have bytes : ∀ k : Fin 32,
      (0x000000FF : Word).getLsbD k = decide (k.val / 8 = 0) ∧ (0x0000FF00 : Word).getLsbD k = decide (k.val / 8 = 1) ∧
      (0x00FF0000 : Word).getLsbD k = decide (k.val / 8 = 2) ∧ (0xFF000000 : Word).getLsbD k = decide (k.val / 8 = 3) := by
    decide
  obtain ⟨h0, h1, h2, h3⟩ := bytes ⟨k, hk⟩
  simp only [fieldMask, BitVec.getLsbD_or, byte, h0, h1, h2, h3]
  have hq : k / 8 = 0 ∨ k / 8 = 1 ∨ k / 8 = 2 ∨ k / 8 = 3 := by omega
  rcases hq with h | h | h | h <;> simp [h]

theorem Mode.privileged_iff (m : Mode) : m.privileged = true ↔ m ≠ .usr := by cases m <;> decide

/-- User cannot write the low byte of CPSR (R285). -/
theorem getLsbD_cpsrMask (m : Mode) (mask : BitVec 4) {k : Nat} (hk : k < 32) :
    (cpsrMask m mask).getLsbD k = true ↔ mask.getLsbD (k / 8) = true ∧ (8 ≤ k ∨ m ≠ .usr) := by
  rw [← getLsbD_fieldMask mask hk, cpsrMask]
  by_cases hm : m = .usr
  · have low : ∀ k : Fin 32, (0xFFFFFF00 : Word).getLsbD k = decide (8 ≤ k.val) := by decide
    have bit : (0xFFFFFF00 : Word).getLsbD k = decide (8 ≤ k) := low ⟨k, hk⟩
    rw [if_neg (fun h => (m.privileged_iff.1 h) hm), BitVec.getLsbD_and, bit]
    simp [hm]
  · rw [if_pos (m.privileged_iff.2 hm)]
    simp [hm]

/-! ## MSR, in both operand forms (R282, R283) -/

/-- The two forms of MSR differ in where the operand `v` comes from. -/
theorem exec_msr {c : Cond} {psr : Psr} {mask rot : BitVec 4} {imm8 : BitVec 8} {rm : RegIdx} {i : Instr} {v : Word} {s : State}
    (hc : condPassed c.code s.cpsr = true)
    (hi : (i = .msrReg c psr mask rm ∧ v = s.read rm) ∨ (i = .msrImm c psr mask rot imm8 ∧ v = rotatedImm rot imm8)) :
    exec i s = .next (runMsr psr mask v s).settle := by
  rcases hi with ⟨rfl, rfl⟩ | ⟨rfl, rfl⟩
  · rw [exec_msrReg, if_pos hc]
  · rw [exec_msrImm, if_pos hc]

/-- Settles O44, from the bits of the masked write. -/
theorem msrSpsrResult : Obligations.MsrSpsrResult := by
  intro c mask rot imm8 rm i v s hc hi
  rw [exec_msr hc hi, runMsr, State.checkSpsr_andThen_settle]
  refine ⟨fun h => by rw [if_pos h], fun h => ⟨_, by rw [if_neg (not_or.2 h)], fun k hk => ?_, rfl⟩⟩
  exact (getLsbD_mergeMask _ _ _ hk).trans (by rw [getLsbD_fieldMask mask hk])

/-- A write of CPSR that names a mode leaves every register of every mode, every SPSR and everything outside the bank (R135, R140). -/
theorem State.writeCpsr_keeps {s : State} {v : Word} {m : Mode} (h : modeOf (modeField v) = some m) :
    ∃ t, s.writeCpsr v = .ok t ∧ t.cpsr = v ∧ t.mode = m ∧
      (∀ (m' : Mode) (r : RegIdx), t.regIn m' r = s.regIn m' r) ∧
      (∀ m' : Mode, m'.hasSpsr = true → t.spsrIn m' = s.spsrIn m') ∧
      t.mem = s.mem ∧ t.ir = s.ir ∧ t.halted = s.halted ∧ t.err = s.err := by
  have act : s.ActiveChange { s with cpsr := v } := rfl
  exact ⟨_, State.writeCpsr_of_some h, State.switchMode_cpsr .., State.switchMode_mode ..,
    fun m' r => (State.regIn_switchMode ..).trans (act.regIn_of_regs rfl m' r),
    fun m' hm' => (State.spsrIn_switchMode _ _ _ hm').trans (act.spsrIn_eq m'),
    State.switchMode_mem .., State.switchMode_ir .., State.switchMode_halted .., State.switchMode_err ..⟩

/-- Settles O45: the value described bit by bit is the one MSR hands to `WriteCPSR`. -/
theorem msrCpsrResult : Obligations.MsrCpsrResult := by
  intro c mask rot imm8 rm i v new s hc hi hnew
  have value : mergeMask s.cpsr v (cpsrMask s.mode mask) = new := by
    apply BitVec.eq_of_getLsbD_eq
    intro k hk
    rw [getLsbD_mergeMask _ _ _ hk, hnew k hk]
    simp only [getLsbD_cpsrMask s.mode mask hk]
  rw [exec_msr hc hi, runMsr, value]
  refine ⟨fun hm => ?_, fun m hm => ?_⟩
  · rw [State.writeCpsr_of_none hm, Run.settle_err]
  · obtain ⟨t, run, hcpsr, hmode, hregs, hspsrs, hmem, hrest⟩ := State.writeCpsr_keeps (s := s) hm
    exact ⟨t, by rw [run, Run.settle_ok], hcpsr, hmode, hregs, hspsrs, fun a => by rw [hmem], hmem, hrest⟩

/-! ## CLZ (R284) -/

/-- The count over the low `n` bits of a value that fits in them, by induction on `n`: the top bit is the highest set bit, or it is a
leading zero and the value fits in the bits below. -/
theorem leadingZeros_eq {v : Word} {n : Nat} (h : v.toNat < 2 ^ n) :
    leadingZeros v n = if v = 0 then n else n - 1 - Nat.log2 v.toNat := by
  induction n with
  | zero =>
    have hv : v = 0 := BitVec.eq_of_toNat_eq (by simpa using h)
    rw [if_pos hv, leadingZeros]
  | succ n ih =>
    rw [leadingZeros, BitVec.getLsbD]
    by_cases low : v.toNat < 2 ^ n
    · rw [Nat.testBit_lt_two_pow low, ih low, if_neg (by decide)]
      split
      · rfl
      · next hv =>
        have : v.toNat ≠ 0 := fun e => hv (BitVec.eq_of_toNat_eq e)
        have := (Nat.log2_lt this).2 low
        omega
    · have high : 2 ^ n ≤ v.toNat := Nat.le_of_not_lt low
      have pos : v.toNat ≠ 0 := by have := Nat.two_pow_pos n; omega
      have hv : v ≠ 0 := fun e => pos (by rw [e]; rfl)
      rw [if_pos (Nat.testBit_of_two_pow_le_and_two_pow_add_one_gt high h), if_neg hv,
        (Nat.log2_eq_iff pos).2 ⟨high, h⟩]
      omega

theorem countLeadingZeros_eq (v : Word) : countLeadingZeros v = if v = 0 then 32 else 31 - Nat.log2 v.toNat :=
  leadingZeros_eq v.isLt

/-- Settles O46, from the closed form of the count. -/
theorem clzResult : Obligations.ClzResult := by
  intro c rd rm s v n
  rw [exec_clz, countLeadingZeros_eq]
  rfl

end Sys2Proof.Machine
end

section
/-! PROOFS. The family `47_unimplemented_classes.md`: the classes whose whole effect is the fatal error `Unimplemented(class)`. -/

namespace Sys2Proof.Machine

/-- R295: raising `Unimplemented(class)` halts the core and records the label; every other field is that of `s`. -/
@[simp] theorem stub_settle (cls : StubClass) (s : State) : (stub cls s).settle = s.haltedBy (.unimplemented cls) :=
  Run.settle_err s _

/-- R300 to R308: every row of the table of labels runs the stub of its own label, one class after another. -/
theorem exec_stubsWithLabels (c : Cond) (s : State) : ∀ row ∈ stubsWithLabels c,
    exec row.1 s = .next (if condPassed c.code s.cpsr then (stub row.2 s).settle else s) := by
  simp only [stubsWithLabels, List.forall_mem_cons]
  exact ⟨exec_qadd c s, exec_qsub c s, exec_qdadd c s, exec_qdsub c s, exec_smulClass c s, exec_mulClass c s,
    exec_xlsClassH c s, exec_xlsClassSb c s, exec_xlsClassSh c s, exec_lsImmClass c s, exec_lsRegClass c s,
    exec_mediaClass c s, exec_cpLsClass c s, exec_cpOpClass c s, exec_swi c s, List.forall_mem_nil _⟩

/-- Settles O47, from the row of the table that the class stands in. -/
theorem stubClassesHalt : Obligations.StubClassesHalt := by
  intro c i label s row
  have run := exec_stubsWithLabels c s (i, label) row
  rwa [stub_settle] at run

end Sys2Proof.Machine
end

section
/-! PROOFS. The families `60_exceptions.md` and `70_reset_and_hazards.md`: the instructions that change the mode, what a fatal error
leaves behind, and an instruction that the driver places at `pc` (R320, R331, R336, R354, R358). -/

namespace Sys2Proof.Machine

/-! ## The instructions that change the mode (R336) -/

/-- A value that keeps the control byte of CPSR names the current mode (R36). -/
theorem State.ModeAgrees.mode_eq_of_byte {s : State} (h : s.ModeAgrees) {c : Word} {m : Mode}
    (hb : c &&& 0xFF = s.cpsr &&& 0xFF) (hm : modeOf (modeField c) = some m) : m = s.mode := by
  have hs : modeOf (modeField s.cpsr) = some s.mode := h
  rw [modeField_of_byte hb, hs] at hm
  exact (Option.some.inj hm).symm

/-- A core that goes on in another mode ran a return, or an MSR of the control byte outside User mode: a User-bank transfer that
completes comes back to its own mode (R266), and one that does not has halted the core (R269). -/
theorem Effect.of_mode_ne {i : Instr} {s t : State} (e : Effect i s t) (ha : s.ModeAgrees) (hgo : t.halted = false)
    (hne : t.mode ≠ s.mode) : ReturnsMode i ∨ (s.mode ≠ .usr ∧ WritesControl i) := by
  cases e with
  | plain _ _ _ | spsr _ _ | store _ _ _ _ _ => exact absurd rfl hne
  | halt _ | loadErr _ _ _ _ _ | storeErr _ _ _ _ _ _ | userErr _ _ _ _ _ _ _ _ _ _ => cases hgo
  | ret r c m _ _ hi => exact .inl hi
  | msr c m hm hk =>
    rw [State.switchMode_mode] at hne
    exact .inr (hk.resolve_left fun sameByte => hne (ha.mode_eq_of_byte sameByte hm))
  | user r r' c mem _ _ _ _ => exact absurd (State.switchMode_mode _ _) hne

/-- Settles O58, by the shapes of an instruction's effect. -/
theorem onlyReturnsAndMsrChangeMode : Obligations.OnlyReturnsAndMsrChangeMode := by
  intro i s t ha ht hgo hne
  rcases (Effect.of_exec ht).of_mode_ne ha hgo hne with (writer | ldmRet) |
    ⟨notUsr, ⟨c, mask, rm, rfl, hb⟩ | ⟨c, mask, rot, imm8, rfl, hb⟩⟩
  · exact .inl writer
  · exact .inr (.inr (.inr ldmRet))
  · exact .inr (.inl ⟨c, mask, rm, rfl, hb, notUsr⟩)
  · exact .inr (.inr (.inl ⟨c, mask, rot, imm8, rfl, hb, notUsr⟩))

/-! ## What a fatal error leaves (R320, R331) -/

theorem isBlockTransfer_of_isStore {i : Instr} (h : isStore i = true) : isBlockTransfer i = true := by
  cases i with
  | stm _ _ _ _ _ _ | stmUser _ _ _ _ _ _ | stmSPc _ _ _ _ _ _ => rfl
  | _ => cases h

/-- An instruction that halts the core has changed nothing else, or is a block transfer that met an address out of range. -/
theorem Effect.of_halts {i : Instr} {s t : State} (e : Effect i s t) (hs : s.halted = false) (ht : t.halted = true) :
    ∃ f, t.err = some f ∧ (t = s.haltedBy f ∨ (isBlockTransfer i = true ∧ ∃ a, f = .addressError a)) := by
  have goesOn : s.halted ≠ true := by rw [hs]; decide
  cases e with
  | plain _ _ _ | spsr _ _ | store _ _ _ _ _ => exact absurd ht goesOn
  | ret _ _ _ _ _ _ | msr _ _ _ _ => exact absurd ((State.switchMode_halted _ _).symm.trans ht) goesOn
  | user r r' c mem _ _ _ _ =>
    rw [State.switchMode_halted, State.switchMode_halted] at ht
    exact absurd ht goesOn
  | halt f => exact ⟨f, rfl, .inl rfl⟩
  | loadErr _ _ a _ hi => exact ⟨_, rfl, .inr ⟨hi, a, rfl⟩⟩
  | storeErr _ _ a _ _ hi => exact ⟨_, rfl, .inr ⟨isBlockTransfer_of_isStore hi, a, rfl⟩⟩
  | userErr _ _ _ _ a _ _ _ _ hb => exact ⟨_, rfl, .inr ⟨hb, a, rfl⟩⟩

/-- Settles O60, by the shapes of an instruction's effect. -/
theorem errorsArePrecise : Obligations.ErrorsArePrecise := fun _ _ _ hs h ht => (Effect.of_exec h).of_halts hs ht

/-! ## An instruction placed at `pc` (R354, R358; log 4) -/

/-- The state with a word in the four bytes that the next ARM-state fetch reads. -/
def State.placed (s : State) (w : Word) : State := { s with mem := s.mem.setBytes s.pc.toNat w 4 }

/-- The driver's load of a word that fits inside the device at `pc`. -/
theorem State.withFetchWord_toNat {s : State} (w : Word) (h : s.pc.toNat + 4 ≤ s.mem.size) :
    s.withFetchWord 32 w.toNat = s.placed w := by
  have hw : BitVec.ofNat 32 (w.toNat % 2 ^ 32) = w := by
    rw [Nat.mod_eq_of_lt w.isLt, BitVec.ofNat_toNat, BitVec.setWidth_eq]
  rw [State.withFetchWord, hw, State.placeWord, memWrite_word_ok w h]
  rfl

theorem State.Fetchable.placed {s : State} (h : s.Fetchable) (w : Word) : (s.placed w).Fetchable :=
  ⟨h.1, h.2.trans_eq (Memory.size_setBytes _ _ _ _).symm⟩

/-- The fetch reads the placed word back (R64, R65). -/
theorem State.Fetchable.wordAt_placed {s : State} (h : s.Fetchable) (hw : s.mem.wf = true) (w : Word) :
    (s.placed w).mem.wordAt (s.placed w).pc = w := Memory.wordAt_setBytes hw w h.2

/-- Settles O10: the placed word is fetched, and it decodes to the instruction that it encodes. -/
theorem placedInstructionRuns : Obligations.PlacedInstructionRuns := by
  intro s i hs hw hi
  have fetchesI : (s.placed (encode i)).mem.wordAt (s.placed (encode i)).pc = encode i := hs.wordAt_placed hw _
  rw [State.withFetchWord_toNat _ hs.2, step_of_encoded (hs.placed _) fetchesI hi, fetchesI]
  rfl

end Sys2Proof.Machine
end
